-- ==== Sys2Proof/Word.lean ====
section
/-! DEFINITION. The widths of the block's values (spec/20_memory.md R42; every value is unsigned, spec/00_scope.md R9). -/

namespace Sys2Proof

/-- A command word, a register of the register port, a response word (R42, R54). -/
abbrev Word := BitVec 32

/-- A byte of the output stream, and a codebook entry's byte (R35). -/
abbrev Byte := BitVec 8

/-- A frame-memory element: bits 23:16 are R, 15:8 are G, 7:0 are B (R37). -/
abbrev Pixel := BitVec 24

/-- A packed pixel word, channels in the order G, R, B (R64); not the layout of `Pixel`. -/
abbrev Packed := BitVec 24

/-- A slot's 3-bit group (R65). -/
abbrev Group := BitVec 3

/-- A slot number 0 to 7 (R65, R56's SLOT). -/
abbrev Slot := BitVec 3

end Sys2Proof
end

