-- ==== Sys2Proof/Syntax.lean ====
section
/-! DEFINITION. The commands of the command port (spec/30_encoding.md R55 to R57) and the lines of the spec's program
notation (R62, R63). -/

namespace Sys2Proof

/-- The five commands, one constructor per row of spec/opcode_table.json. Each operand has exactly the width of its
field (R56), so an `Instr` out of range cannot be written (log 14). -/
inductive Instr where
  /-- CONFIG W, H (R83). -/
  | config (w h : BitVec 12)
  /-- PIXEL R, G, B (R84). -/
  | pixel (r g b : BitVec 8)
  /-- ENCODE (R85). -/
  | encode
  /-- CB_LOOKUP CH, VAL, SLOT (R76). CH = 3 is an encodable operand, which the command's meaning faults on. -/
  | cbLookup (ch : BitVec 2) (val : BitVec 8) (slot : Slot)
  /-- MAP_LOOKUP P (R81). -/
  | mapLookup (p : BitVec 24)
deriving DecidableEq, Repr

/-- A line of a program in the notation of R62 and R63. Its numbers are as written, so they may fail to fit their
field; `Source.wellFormed` is the check. -/
inductive Source where
  | config (w h : Nat)
  | pixel (r g b : Nat)
  | encode
  | cbLookup (ch val slot : Nat)
  | mapLookup (p : Nat)
  /-- The host takes the response (R28). -/
  | take
  /-- The host reads a register (R18); `ra` is its address. -/
  | read (ra : BitVec 3)
  /-- The sink accepts `k` bytes. -/
  | sink (k : Nat)
  /-- The sink reports an error (R99). -/
  | sinkErr
  /-- FILL R, G, B (R63). -/
  | fill (r g b : Nat)
  /-- FRAME followed by the pixels in raster order (R63). -/
  | frame (pixels : List (Nat × Nat × Nat))
  /-- SHOW R, G, B (R63). -/
  | showFrame (r g b : Nat)
deriving DecidableEq, Repr

end Sys2Proof
end

