-- ==== Sys2Proof/Decode.lean ====
section
/-! DEFINITION. Decoding and encoding of command words (spec/30_encoding.md R55 to R59). -/

namespace Sys2Proof

/-- Why a word is illegal (R58). Both raise ILLEGAL_CMD. -/
inductive Illegal where
  /-- OP is 0x0 or 0x6 to 0xF (R57). -/
  | reservedOpcode
  /-- A reserved bit of the command's format is 1 (R58). -/
  | reservedBits
deriving DecidableEq, Repr

/-- OP = cmd_data[31:28] (R55). -/
def opcodeOf (w : Word) : BitVec 4 := w.extractLsb' 28 4

/-- A command, unless a bit of its opcode's reserved mask RSV(OP) is 1 in the word (R58). -/
def legalIf (w rsv : Word) (i : Instr) : Except Illegal Instr :=
  if w &&& rsv ≠ 0#32 then .error .reservedBits else .ok i

/-- R59's decode: total on every 32-bit word. -/
def decode (w : Word) : Except Illegal Instr :=
  match (opcodeOf w).toNat with
  | 1 => legalIf w 0x0F000000#32 (.config (w.extractLsb' 12 12) (w.extractLsb' 0 12))
  | 2 => legalIf w 0x0F000000#32 (.pixel (w.extractLsb' 16 8) (w.extractLsb' 8 8) (w.extractLsb' 0 8))
  | 3 => legalIf w 0x0FFFFFFF#32 .encode
  | 4 => legalIf w 0x0FFC00F8#32 (.cbLookup (w.extractLsb' 16 2) (w.extractLsb' 8 8) (w.extractLsb' 0 3))
  | 5 => legalIf w 0x0F000000#32 (.mapLookup (w.extractLsb' 0 24))
  | _ => .error .reservedOpcode

/-- The word of a command: R55's format, field by field from bit 31 down, the reserved bits 0. -/
def encode : Instr → Word
  | .config w h => 0x1#4 ++ 0#4 ++ w ++ h
  | .pixel r g b => 0x2#4 ++ 0#4 ++ r ++ g ++ b
  | .encode => 0x3#4 ++ 0#28
  | .cbLookup ch val slot => 0x4#4 ++ 0#10 ++ ch ++ val ++ 0#5 ++ slot
  | .mapLookup p => 0x5#4 ++ 0#4 ++ p

/-- The command word whose low `nbits` bits are those of `w`; every bit above is 0 (log 15). -/
def tableWord (nbits w : Nat) : Word := BitVec.ofNat 32 (w % 2 ^ nbits)

/-- What the decoder reads from an instruction of the opcode table whose bits are `w`. A command is one 32-bit word
(R54), so more than 32 bits are no command. -/
def decodeTableWord (nbits w : Nat) : Option Instr :=
  if nbits ≤ 32 then
    match decode (tableWord nbits w) with
    | .ok i => some i
    | .error _ => none
  else none

end Sys2Proof
end

