-- ==== Sys2Proof/Config.lean ====
section
/-! DEFINITION. What an implementation fixes (spec/00_scope.md R7). The one OPEN parameter of the block itself is
FM_CAPACITY; the host-side QUANT_SCALE and QUANT_ROUND are arguments of the quantizer (Machine/Quantizer.lean). -/

namespace Sys2Proof.Config

/-- A free value: FM_CAPACITY less one. It has no body, so nothing can be proved of it beyond its range (log 3). -/
opaque fmCapacityLessOne : Fin 16777215

/-- FM_CAPACITY, the frame memory's size in pixels: OPEN, 1 ≤ FM_CAPACITY ≤ 2^24 − 1 (R7, D9, I17). Every number of
that range is a possible value (log 3). -/
def fmCapacity : Nat := fmCapacityLessOne.val + 1

/-- SLOTS and BYTES_PER_PIXEL of R7. -/
def slots : Nat := 8

/-- BAUD of R7: a constant of the link, used by no step. -/
def baud : Nat := 3010000

/-- The data bits of LINE_FORMAT, 7N1 (R7, R51). -/
def lineDataBits : Nat := 7

end Sys2Proof.Config
end

