-- ==== Sys2Proof/Machine/State.lean ====
section
/-! DEFINITION. The state of the block (spec/10_state.md R33), the environment's pending inputs beside it, and reset. -/

namespace Sys2Proof.Machine

/-- PHASE (R16). -/
inductive Phase where
  | unconfigured
  | idle
  | busy
  | fault
deriving DecidableEq, Repr

/-- ERR, the block's fault codes (R94). Codes 10 to 15 are "never written", so they have no name. -/
inductive Err where
  | noFault
  | illegalCmd
  | notConfigured
  | configLocked
  | badDimensions
  | frameOverflow
  | frameUnderflow
  | badChannel
  | badIndex
  | sinkError
deriving DecidableEq, Repr

/-- The steps of R103's agents, and reset (R114). -/
inductive Move where
  /-- HOST: a command step (R82). -/
  | command
  /-- HOST: a response-take step (R28). -/
  | take
  /-- ENGINE with SINK: an emission step (R86). -/
  | emit
  /-- SINK: a sink error (R99). -/
  | sinkError
  /-- The reset input (R114). -/
  | reset
deriving DecidableEq, Repr

/-- The inputs that meet in one cycle of a cycle-level implementation (R97). The offered command is the head of
`State.offered`. -/
structure Cycle where
  reset : Bool
  sinkError : Bool
  sinkReady : Bool
deriving DecidableEq, Repr

/-- One entry of the agenda: a single move (R103), or a cycle in which several events meet (R97). -/
inductive Turn where
  | move (m : Move)
  | cycle (c : Cycle)
deriving DecidableEq, Repr

/-- The MODEL's own stops. The block's fatal errors are not among them: those are the FAULT phase, a next state
(R98). Each is raised only in states that no run from reset reaches; all are safe (the model stops). -/
inductive Fault where
  /-- Raised by an emission step that reads a frame-memory element holding no value (R29). Safe. -/
  | elementUnwritten
  /-- Raised by an emission step whose physical index is outside AMAP's domain `0 ≤ p < N` (R77, R116). Safe. -/
  | addressUndefined
  /-- Raised by PIXEL when WR_PTR is no index of the frame memory, `i ≥ FM_CAPACITY` (R35). Safe. -/
  | elementAbsent
deriving DecidableEq, Repr

/-- Instructions without a meaning. No arm of `exec` is left so. -/
inductive Refusal where
  /-- Raised by `exec` for a command that has no meaning yet. Safe. -/
  | notModelled (mnemonic : String)
deriving DecidableEq, Repr

/-- The frame memory: (raster index, element) pairs, indices strictly rising, no entry for an element that holds no
value (R29, log 4). -/
abbrev FrameMem := List (Nat × Pixel)

/-- R33's tuple, and below it the model's own five fields. -/
structure State where
  /-- PHASE (R16). -/
  phase : Phase
  /-- STATUS.ERR (R19). -/
  err : Err
  /-- W (R20). -/
  width : BitVec 12
  /-- H (R20). -/
  height : BitVec 12
  /-- WR_PTR (R21). -/
  wrPtr : BitVec 24
  /-- FRAME_COUNT (R22). -/
  frameCount : BitVec 32
  /-- ENC_POS (R24). -/
  encPos : BitVec 27
  /-- FAULT_INFO (R25). -/
  faultInfo : Word
  /-- RSP_VALID (R28). -/
  rspValid : Bool
  /-- RSP_DATA (R28). -/
  rspData : Word
  /-- FM (R29). -/
  fm : FrameMem
  /-- OUT, oldest byte first (R39). -/
  out : List Byte
  /-- The model's own: FM_CAPACITY, fixed for the machine (R7, log 3). -/
  fmCapacity : Nat
  /-- The model's own: the words the HOST still offers, the head on the command port (R54, log 7). -/
  offered : List Word
  /-- The model's own: the agents' turns still to come (R103, log 1). -/
  agenda : List Turn
  /-- The model's own: the responses the HOST has taken, oldest first (R28, log 8). -/
  taken : List Word
  /-- The model's own: OUT of the sessions that a reset ended, oldest first (R115, log 8). -/
  pastOut : List (List Byte)
deriving DecidableEq, Repr

/-- R34's reset values in a block whose frame memory has `cap` elements, with nothing offered and no turn to come. -/
def State.resetWith (cap : Nat) : State where
  phase := .unconfigured
  err := .noFault
  width := 0#12
  height := 0#12
  wrPtr := 0#24
  frameCount := 0#32
  encPos := 0#27
  faultInfo := 0#32
  rspValid := false
  rspData := 0#32
  fm := []
  out := []
  fmCapacity := cap
  offered := []
  agenda := []
  taken := []
  pastOut := []

/-- The machine right after reset (R34, R114), its capacity the open parameter (log 3). -/
def State.reset : State := State.resetWith Config.fmCapacity

end Sys2Proof.Machine
end

