-- ==== Sys2Proof/Machine/Operands.lean ====
section
/-! DEFINITION. The codes and layouts of the block's values: phase and fault codes, channels, pixel elements, response
words (spec/10_state.md R16, R19; 30_encoding.md R56, R60; 20_memory.md R37). -/

namespace Sys2Proof.Machine

/-- R16's values of PHASE. -/
def Phase.code : Phase → BitVec 2
  | .unconfigured => 0#2
  | .idle => 1#2
  | .busy => 2#2
  | .fault => 3#2

/-- R94's values of ERR. -/
def Err.code : Err → BitVec 4
  | .noFault => 0#4
  | .illegalCmd => 1#4
  | .notConfigured => 2#4
  | .configLocked => 3#4
  | .badDimensions => 4#4
  | .frameOverflow => 5#4
  | .frameUnderflow => 6#4
  | .badChannel => 7#4
  | .badIndex => 8#4
  | .sinkError => 9#4

/-- The channels of a pixel. -/
inductive Channel where
  | red
  | green
  | blue
deriving DecidableEq, Repr

/-- CH: 0 = R, 1 = G, 2 = B; 3 names no channel (R56, D13). -/
def channelOf (ch : BitVec 2) : Option Channel :=
  match ch.toNat with
  | 0 => some .red
  | 1 => some .green
  | 2 => some .blue
  | _ => none

/-- The stored element `{R, G, B}` (R37). -/
def pixelOf (r g b : Byte) : Pixel := r ++ g ++ b

/-- Bits 23:16 of an element (R37). -/
def redOf (px : Pixel) : Byte := px.extractLsb' 16 8

/-- Bits 15:8 of an element (R37). -/
def greenOf (px : Pixel) : Byte := px.extractLsb' 8 8

/-- Bits 7:0 of an element (R37). -/
def blueOf (px : Pixel) : Byte := px.extractLsb' 0 8

/-- CB_LOOKUP's response word: the byte in bits 7:0, bits 31:8 zero (R60). -/
def byteResponse (b : Byte) : Word := 0#24 ++ b

/-- MAP_LOOKUP's response word: x in bits 23:12, y in bits 11:0, bits 31:24 zero (R60). -/
def coordResponse (xy : Nat × Nat) : Word := 0#8 ++ BitVec.ofNat 12 xy.1 ++ BitVec.ofNat 12 xy.2

end Sys2Proof.Machine
end

