-- ==== Sys2Proof/Machine/Ops.lean ====
section
/-! DEFINITION. The named operations over the frame memory and the registers, fault entry (spec/60_exceptions.md R98),
reset (70_reset_and_hazards.md R114, R115), and the host's and the sink's own steps (10_state.md R28, 60 R99). -/

namespace Sys2Proof.Machine

/-! The frame memory (R29, R36, R42). -/

/-- The element at raster index `i`; `none` where no value was written since reset (R29). -/
def FrameMem.read : FrameMem → Nat → Option Pixel
  | [], _ => none
  | (j, v) :: rest, i => if i = j then some v else FrameMem.read rest i

/-- Write one whole element (R42, R43), keeping the indices strictly rising. -/
def FrameMem.write : FrameMem → Nat → Pixel → FrameMem
  | [], i, v => [(i, v)]
  | (j, u) :: rest, i, v =>
    if i < j then (i, v) :: (j, u) :: rest
    else if i = j then (i, v) :: rest
    else (j, u) :: FrameMem.write rest i v

/-- Every listed index is at least `lo`, and the indices rise strictly. -/
def FrameMem.risesFrom : Nat → FrameMem → Bool
  | _, [] => true
  | lo, (j, _) :: rest => decide (lo ≤ j) && FrameMem.risesFrom (j + 1) rest

/-- The canonical form of a frame memory: strictly rising indices. No entry can equal what an unlisted index reads as,
for that is no value. -/
def FrameMem.wf (m : FrameMem) : Bool := FrameMem.risesFrom 0 m

/-! Sizes of the frame (R7). -/

/-- N = W × H. -/
def State.pixelCount (s : State) : Nat := s.width.toNat * s.height.toNat

/-- FRAME_BYTES = 8 × N. -/
def State.frameSize (s : State) : Nat := Config.slots * s.pixelCount

/-! Fault entry (R98). There is no return from a fault but reset (R100). -/

/-- `raise Fault(code, info)`: ERR, FAULT_INFO and PHASE are written, "Nothing else changes". -/
def raiseFault (code : Err) (info : Word) (s : State) : State :=
  { s with err := code, faultInfo := info, phase := .fault }

/-- The fault of an accepted word that decodes to no command (R82). -/
def rejectIllegal (word : Word) (s : State) : State := raiseFault .illegalCmd word s

/-- A command's fault: FAULT_INFO holds the command's own word (R25, log 6). -/
def faultCommand (code : Err) (i : Instr) (s : State) : State := raiseFault code (encode i) s

/-! Register updates of the commands. -/

/-- CONFIG's effect (R83). -/
def bindDimensions (w h : BitVec 12) (s : State) : State :=
  { s with width := w, height := h, wrPtr := 0#24, phase := .idle }

/-- PIXEL's effect (R84). -/
def storePixel (px : Pixel) (s : State) : State :=
  { s with fm := FrameMem.write s.fm s.wrPtr.toNat px, wrPtr := s.wrPtr + 1#24 }

/-- ENCODE's effect (R85). -/
def beginFrame (s : State) : State := { s with encPos := 0#27, phase := .busy }

/-- `Respond(w)`: place a word in the response slot (R28). -/
def respond (w : Word) (s : State) : State := { s with rspValid := true, rspData := w }

/-- `Emit(b)` and the advance of ENC_POS (R86). -/
def emitByte (b : Byte) (s : State) : State :=
  { s with out := s.out ++ [b], encPos := s.encPos + 1#27 }

/-- What the final emission step of a frame also does (R86). FRAME_COUNT is modulo 2^32 (R22). -/
def finishFrame (s : State) : State :=
  { s with phase := .idle, wrPtr := 0#24, frameCount := s.frameCount + 1#32 }

/-! The steps that are no command. -/

/-- The command step's consumption of exactly one word (R82): the head of the offered words, and the rest. -/
def fetchWord (s : State) : Option (Word × State) :=
  match s.offered with
  | [] => none
  | w :: rest => some (w, { s with offered := rest })

/-- The response-take step (R28): it returns RSP_DATA to the HOST and clears RSP_VALID. -/
def takeResponse (s : State) : State :=
  { s with rspValid := false, taken := s.taken ++ [s.rspData] }

/-- The sink-error step (R99): FAULT_INFO is ENC_POS, zero-extended (R25). -/
def sinkFails (s : State) : State := raiseFault .sinkError (s.encPos.setWidth 32) s

/-- Reset (R114, R115): every piece of the block's state takes its value of R34. The bytes already emitted stay in the
previous session's OUT; a command offered but not accepted stays offered. -/
def resetBlock (s : State) : State :=
  { State.resetWith s.fmCapacity with
    offered := s.offered
    agenda := s.agenda
    taken := s.taken
    pastOut := s.pastOut ++ [s.out] }

end Sys2Proof.Machine
end

