-- ==== Sys2Proof/Machine/AddressMap.lean ====
section
/-! DEFINITION. The serpentine address map (spec/41_address_map.md R77 to R79) and MAP_LOOKUP (R81). -/

namespace Sys2Proof.Machine

/-- R77: the coordinates of physical index `p` in a frame `w` pixels wide, `0 ≤ p < N`. Its callers check `p < N`,
which also gives `w ≥ 1` (R92). -/
def amap (w p : Nat) : Nat × Nat :=
  if (p / w) % 2 = 0 then (p % w, p / w) else (w - 1 - p % w, p / w)

/-- R36: the raster index of a pixel. -/
def rasterIndex (w : Nat) (xy : Nat × Nat) : Nat := xy.2 * w + xy.1

/-- R78: the raster index an emission reads for physical index `p`. -/
def ridx (w p : Nat) : Nat := rasterIndex w (amap w p)

/-- R79(e): the physical index of a pixel of the grid. -/
def amapInverse (w : Nat) (xy : Nat × Nat) : Nat :=
  xy.2 * w + if xy.2 % 2 = 0 then xy.1 else w - 1 - xy.1

/-- MAP_LOOKUP (R81). -/
def execMapLookup (p : BitVec 24) (s : State) : Host.Outcome State Fault Refusal :=
  if s.phase = .unconfigured then .next (faultCommand .notConfigured (.mapLookup p) s)
  else if s.pixelCount ≤ p.toNat then .next (faultCommand .badIndex (.mapLookup p) s)
  else .next (respond (coordResponse (amap s.width.toNat p.toNat)) s)

end Sys2Proof.Machine
end

