-- ==== Sys2Proof/Machine/Codebook.lean ====
section
/-! DEFINITION. The codebook (spec/40_codebook.md R64 to R74) and CB_LOOKUP (R76). -/

namespace Sys2Proof.Machine

/-- R64: `(g << 16) | (r << 8) | b`. -/
def pack (r g b : Byte) : Packed :=
  (g.setWidth 24 <<< 16) ||| (r.setWidth 24 <<< 8) ||| b.setWidth 24

/-- The packed word of a stored element (R86, R87). -/
def packPixel (px : Pixel) : Packed := pack (redOf px) (greenOf px) (blueOf px)

/-- R65: `group(w, s) = (w >> (21 − 3s)) & 7`. -/
def group (w : Packed) (s : Slot) : Group := (w >>> (21 - 3 * s.toNat)).setWidth 3

/-- `¬b` of bit `i` of a group, as a byte: `1 − b` (R10, R66). -/
def notBit (g : Group) (i : Nat) : Byte := if g.getLsbD i then 0#8 else 1#8

/-- R67: `(¬b0) | (1 << 1) | ((¬b1) << 3) | (1 << 4) | ((¬b2) << 6)`. -/
def sym (g : Group) : Byte :=
  notBit g 0 ||| (1#8 <<< 1) ||| (notBit g 1 <<< 3) ||| (1#8 <<< 4) ||| (notBit g 2 <<< 6)

/-- R70's inverse of `sym` on the eight symbol bytes. -/
def unsym (x : Byte) : Group :=
  BitVec.ofBool (!x.getLsbD 6) ++ BitVec.ofBool (!x.getLsbD 3) ++ BitVec.ofBool (!x.getLsbD 0)

/-- The eight slots in transmission order (R41(c)). -/
def slotsInOrder : List Slot := [0#3, 1#3, 2#3, 3#3, 4#3, 5#3, 6#3, 7#3]

/-- R68: the eight bytes of a packed word, slot 0 first. -/
def encodePacked (w : Packed) : List Byte := slotsInOrder.map (fun s => sym (group w s))

/-- R71: the packed word with one channel set and the other two 0. -/
def single (ch : Channel) (v : Byte) : Packed :=
  match ch with
  | .red => pack v 0#8 0#8
  | .green => pack 0#8 v 0#8
  | .blue => pack 0#8 0#8 v

/-- R71: the codebook entry `CB(ch, v, s)`. -/
def codebook (ch : Channel) (v : Byte) (s : Slot) : Byte := sym (group (single ch v) s)

/-- What a 7-data-bit link carries of a byte: bits 6..0 (R52). -/
def linkPayload (b : Byte) : BitVec 7 := b.setWidth 7

/-- CB_LOOKUP (R76). It has no phase check (R96). -/
def execCbLookup (ch : BitVec 2) (val : BitVec 8) (slot : Slot) (s : State) : Host.Outcome State Fault Refusal :=
  match channelOf ch with
  | none => .next (faultCommand .badChannel (.cbLookup ch val slot) s)
  | some c => .next (respond (byteResponse (codebook c val slot)) s)

end Sys2Proof.Machine
end

