-- ==== Sys2Proof/Machine/Flags.lean ====
section
/-! DEFINITION. The level outputs (spec/10_state.md R17), the register port (R18 to R27), which moves are enabled
(R103), and the arbitration of a cycle (60_exceptions.md R97). All are pure functions of the state. -/

namespace Sys2Proof.Machine

/-! Level outputs (R17). -/

/-- `busy = (PHASE = BUSY)`. -/
def State.busy (s : State) : Bool := decide (s.phase = .busy)

/-- `fault = (PHASE = FAULT)`. -/
def State.faulted (s : State) : Bool := decide (s.phase = .fault)

/-- `cmd_ready = (PHASE ∈ {UNCONFIGURED, IDLE}) ∧ ¬RSP_VALID`. -/
def State.cmdReady (s : State) : Bool :=
  (decide (s.phase = .unconfigured) || decide (s.phase = .idle)) && !s.rspValid

/-- `out_valid = (PHASE = BUSY)`. -/
def State.outValid (s : State) : Bool := decide (s.phase = .busy)

/-- `cmd_valid`: the host offers a word (R54). -/
def State.cmdValid (s : State) : Bool := !s.offered.isEmpty

/-! The register port (R18). A read is an observation, not a step (R27). -/

/-- STATUS (R19). -/
def statusWord (s : State) : Word := 0#24 ++ s.err.code ++ 0#1 ++ BitVec.ofBool s.rspValid ++ s.phase.code

/-- DIMS (R20). -/
def dimsWord (s : State) : Word := 0#8 ++ s.width ++ s.height

/-- The word the register port returns at address `ra` (R18 to R26); 6 and 7 are reserved and read 0. -/
def readRegister (ra : BitVec 3) (s : State) : Word :=
  match ra.toNat with
  | 0 => statusWord s
  | 1 => dimsWord s
  | 2 => 0#8 ++ s.wrPtr
  | 3 => s.frameCount
  | 4 => 0#5 ++ s.encPos
  | 5 => s.faultInfo
  | _ => 0#32

/-! Which moves are enabled (R82, R28, R86, R99, R114). -/

/-- The move is enabled in this state. An emission also needs the sink's acceptance, which its turn stands for. -/
def enabled (m : Move) (s : State) : Bool :=
  match m with
  | .command => s.cmdValid && s.cmdReady
  | .take => s.rspValid
  | .emit => s.outValid
  | .sinkError => !s.faulted
  | .reset => true

/-- R97's priority among the events of one cycle: reset, then a sink error, then the emission step or a command. The
last two are never both enabled. -/
def arbitrate (c : Cycle) (s : State) : Option Move :=
  if c.reset then some .reset
  else if c.sinkError && enabled .sinkError s then some .sinkError
  else if c.sinkReady && enabled .emit s then some .emit
  else if enabled .command s then some .command
  else none

/-- The move a turn takes, if any: a turn whose move is not enabled takes none (log 2). -/
def moveOf (t : Turn) (s : State) : Option Move :=
  match t with
  | .move m => if enabled m s then some m else none
  | .cycle c => arbitrate c s

end Sys2Proof.Machine
end

