-- ==== Sys2Proof/Machine/FrameEncoder.lean ====
section
/-! DEFINITION. CONFIG, PIXEL, ENCODE (spec/42_frame_encoder.md R83 to R85), the emission step (R86) and the frame
function (R87). -/

namespace Sys2Proof.Machine

/-- CONFIG (R83). The checks stand in R96's order: phase, zero dimensions, capacity. -/
def execConfig (w h : BitVec 12) (s : State) : Host.Outcome State Fault Refusal :=
  if s.phase ≠ .unconfigured then .next (faultCommand .configLocked (.config w h) s)
  else if w = 0#12 ∨ h = 0#12 then .next (faultCommand .badDimensions (.config w h) s)
  else if s.fmCapacity < w.toNat * h.toNat then .next (faultCommand .badDimensions (.config w h) s)
  else .next (bindDimensions w h s)

/-- PIXEL (R84). -/
def execPixel (r g b : BitVec 8) (s : State) : Host.Outcome State Fault Refusal :=
  if s.phase = .unconfigured then .next (faultCommand .notConfigured (.pixel r g b) s)
  else if s.wrPtr.toNat = s.pixelCount then .next (faultCommand .frameOverflow (.pixel r g b) s)
  else if s.fmCapacity ≤ s.wrPtr.toNat then .fault .elementAbsent
  else .next (storePixel (pixelOf r g b) s)

/-- ENCODE (R85). -/
def execEncode (s : State) : Host.Outcome State Fault Refusal :=
  if s.phase = .unconfigured then .next (faultCommand .notConfigured .encode s)
  else if s.wrPtr.toNat ≠ s.pixelCount then .next (faultCommand .frameUnderflow .encode s)
  else .next (beginFrame s)

/-- The byte at offset `j` of the frame in `m`: slot `j mod 8` of the pixel at physical index `j / 8` (R40, R86). -/
def frameByte (w n : Nat) (m : FrameMem) (j : Nat) : Except Fault Byte :=
  if j / 8 < n then
    match FrameMem.read m (ridx w (j / 8)) with
    | some px => .ok (sym (group (packPixel px) (BitVec.ofNat 3 (j % 8))))
    | none => .error .elementUnwritten
  else .error .addressUndefined

/-- `byte` of R86's emission step, from the current state. -/
def nextByte (s : State) : Except Fault Byte := frameByte s.width.toNat s.pixelCount s.fm s.encPos.toNat

/-- `out_data`: while BUSY, the byte the next emission step appends (R39, R86). -/
def State.outData (s : State) : Option Byte :=
  if s.outValid then
    match nextByte s with
    | .ok b => some b
    | .error _ => none
  else none

/-- After a byte: the frame is finished when ENC_POS has reached 8 × W × H (R86). -/
def closeFrame (s : State) : State := if s.encPos.toNat = s.frameSize then finishFrame s else s

/-- The emission step (R86). -/
def emitStep (s : State) : Host.Outcome State Fault Refusal :=
  match nextByte s with
  | .error f => .fault f
  | .ok b => .next (closeFrame (emitByte b s))

/-- R87's FRAMEBYTES, pixel by pixel in physical order, for a frame `w` pixels wide of `n` pixels; `none` if an
element of the frame holds no value. -/
def frameBytes (w : Nat) (m : FrameMem) : Nat → Option (List Byte)
  | 0 => some []
  | n + 1 =>
    match frameBytes w m n, FrameMem.read m (ridx w n) with
    | some bytes, some px => some (bytes ++ encodePacked (packPixel px))
    | _, _ => none

end Sys2Proof.Machine
end

