-- ==== Sys2Proof/Machine/Dispatch.lean ====
section
/-! DEFINITION. The accepted command's meaning (spec/42_frame_encoder.md R82), one arm per constructor. -/

namespace Sys2Proof.Machine

/-- The meaning of a command once the block has accepted it (R82). -/
def exec (i : Instr) (s : State) : Host.Outcome State Fault Refusal :=
  match i with
  | .config w h => Sys2Proof.Machine.execConfig w h s
  | .pixel r g b => Sys2Proof.Machine.execPixel r g b s
  | .encode => Sys2Proof.Machine.execEncode s
  | .cbLookup ch val slot => Sys2Proof.Machine.execCbLookup ch val slot s
  | .mapLookup p => Sys2Proof.Machine.execMapLookup p s

end Sys2Proof.Machine
end

