-- ==== Sys2Proof/Machine/Step.lean ====
section
/-! DEFINITION. One step of the machine: the next turn of the agenda (spec/00_scope.md R12, 60_exceptions.md R103). -/

namespace Sys2Proof.Machine

/-- R82's Accept, of the word on the command port. -/
def acceptCommand (s : State) : Host.Outcome State Fault Refusal :=
  match fetchWord s with
  | none => .next s
  | some (word, s') =>
    match decode word with
    | .error _ => .next (rejectIllegal word s')
    | .ok i => exec i s'

/-- The effect of an enabled move. -/
def perform (m : Move) (s : State) : Host.Outcome State Fault Refusal :=
  match m with
  | .command => acceptCommand s
  | .take => .next (takeResponse s)
  | .emit => emitStep s
  | .sinkError => .next (sinkFails s)
  | .reset => .next (resetBlock s)

/-- A turn: the move it takes, or nothing (log 2). -/
def runTurn (t : Turn) (s : State) : Host.Outcome State Fault Refusal :=
  match moveOf t s with
  | none => .next s
  | some m => perform m s

/-- One step: the first turn of the agenda is taken. With no turn to come no agent moves, and nothing changes
(log 2). -/
def step (s : State) : Host.Outcome State Fault Refusal :=
  match s.agenda with
  | [] => .next s
  | t :: rest => runTurn t { s with agenda := rest }

/-- `s` with one more command word at the head of the offered words, and the HOST's command step as the next turn
(log 7). -/
def State.withFetchWord (s : State) (nbits w : Nat) : State :=
  { s with offered := tableWord nbits w :: s.offered, agenda := .move .command :: s.agenda }

end Sys2Proof.Machine
end

