-- ==== Sys2Proof/WellFormed.lean ====
section
/-! DEFINITION. Which source lines an assembler takes (spec/30_encoding.md R56, R62, R63). The operand types of `Instr`
are R56's widths themselves, so every `Instr` is well formed (log 14). -/

namespace Sys2Proof

/-- `v` fits a field of `width` bits: an assembler "refuses a value that does not fit; it never truncates" (R62). -/
def fitsField (width v : Nat) : Bool := decide (v < 2 ^ width)

/-- The three channels of a pixel each fit 8 bits (R56). -/
def fitsPixel (r g b : Nat) : Bool := fitsField 8 r && fitsField 8 g && fitsField 8 b

/-- The check of one source line, where `n` is the N of the program's last CONFIG, if it has one: every field fits its
width (R56, R62), and a pseudo-command's pixel list has exactly N entries (R63). -/
def Source.wellFormed (n : Option Nat) : Source → Bool
  | .config w h => fitsField 12 w && fitsField 12 h
  | .pixel r g b => fitsPixel r g b
  | .encode => true
  | .cbLookup ch val slot => fitsField 2 ch && fitsField 8 val && fitsField 3 slot
  | .mapLookup p => fitsField 24 p
  | .take => true
  | .read _ => true
  | .sink _ => true
  | .sinkErr => true
  | .fill r g b => n.isSome && fitsPixel r g b
  | .frame pixels => decide (n = some pixels.length) && pixels.all (fun px => fitsPixel px.1 px.2.1 px.2.2)
  | .showFrame r g b => n.isSome && fitsPixel r g b

end Sys2Proof
end

