-- ==== Sys2Proof/Machine/Assembler.lean ====
section
/-! DEFINITION. The program notation of spec/30_encoding.md R62 and R63: lines of text to source lines, source lines to
the host's and the sink's actions, and the agenda those actions make. It is the spec's own notation for its test
programs, not a part of the block (log 16). -/

namespace Sys2Proof.Machine

/-! Text to source lines (R62). A line is a list of characters. -/

/-- The tokens of a line. -/
inductive Token where
  | name (chars : List Char)
  | num (v : Nat)
  | comma
  | lparen
  | rparen
deriving DecidableEq, Repr

/-- The value of a decimal digit. -/
def decimalDigit (c : Char) : Option Nat :=
  if 48 ≤ c.toNat ∧ c.toNat ≤ 57 then some (c.toNat - 48) else none

/-- The value of a hexadecimal digit, of either case. -/
def hexDigit (c : Char) : Option Nat :=
  if 97 ≤ c.toNat ∧ c.toNat ≤ 102 then some (c.toNat - 87)
  else if 65 ≤ c.toNat ∧ c.toNat ≤ 70 then some (c.toNat - 55)
  else decimalDigit c

/-- A digit string in the given base, after the value `acc`. -/
def digitsFrom (digit : Char → Option Nat) (base : Nat) : Nat → List Char → Option Nat
  | acc, [] => some acc
  | acc, c :: rest =>
    match digit c with
    | some d => digitsFrom digit base (acc * base + d) rest
    | none => none

/-- A number: "decimal, or hexadecimal with a `0x` prefix" (R62). -/
def numberOf (chars : List Char) : Option Nat :=
  match chars with
  | '0' :: 'x' :: d :: rest => digitsFrom hexDigit 16 0 (d :: rest)
  | _ => digitsFrom decimalDigit 10 0 chars

/-- The token of a run of characters that hold no separator: a number if it starts with a digit, else a name. -/
def tokenOf (chars : List Char) : Option Token :=
  match chars with
  | [] => none
  | c :: _ => if (decimalDigit c).isSome then (numberOf chars).map .num else some (.name chars)

/-- Put the token of `run` (held in reverse) before `rest`; an empty run adds none, a bad number refuses the line. -/
def closeRun (run : List Char) (rest : Option (List Token)) : Option (List Token) :=
  match run with
  | [] => rest
  | _ => (tokenOf run.reverse).bind (fun t => rest.map (t :: ·))

/-- The tokens of a line, up to a comment's `;` (R62). `run` is the run being read, in reverse. -/
def tokensFrom : List Char → List Char → Option (List Token)
  | run, [] => closeRun run (some [])
  | run, c :: rest =>
    if c = ';' then closeRun run (some [])
    else if c = ' ' ∨ c = '\t' then closeRun run (tokensFrom [] rest)
    else if c = ',' then closeRun run ((tokensFrom [] rest).map (.comma :: ·))
    else if c = '(' then closeRun run ((tokensFrom [] rest).map (.lparen :: ·))
    else if c = ')' then closeRun run ((tokensFrom [] rest).map (.rparen :: ·))
    else tokensFrom (c :: run) rest

/-- CH "may be written `R`, `G` or `B` for 0, 1 or 2" (R62). -/
def channelToken : Token → Option Nat
  | .num v => some v
  | .name ['R'] => some 0
  | .name ['G'] => some 1
  | .name ['B'] => some 2
  | _ => none

/-- A register's name, as R18 spells it. -/
def registerNamed (chars : List Char) : Option (BitVec 3) :=
  if chars = ['S', 'T', 'A', 'T', 'U', 'S'] then some 0#3
  else if chars = ['D', 'I', 'M', 'S'] then some 1#3
  else if chars = ['W', 'R', '_', 'P', 'T', 'R'] then some 2#3
  else if chars = ['F', 'R', 'A', 'M', 'E', '_', 'C', 'O', 'U', 'N', 'T'] then some 3#3
  else if chars = ['E', 'N', 'C', '_', 'P', 'O', 'S'] then some 4#3
  else if chars = ['F', 'A', 'U', 'L', 'T', '_', 'I', 'N', 'F', 'O'] then some 5#3
  else none

/-- FRAME's pixel list, `(r, g, b), …` (R63). -/
def pixelTuples : List Token → Option (List (Nat × Nat × Nat))
  | .lparen :: .num r :: .comma :: .num g :: .comma :: .num b :: .rparen :: rest =>
    match rest with
    | [] => some [(r, g, b)]
    | .comma :: more => (pixelTuples more).map ((r, g, b) :: ·)
    | _ => none
  | _ => none

/-- A command with three numbers. -/
def threeNumbers (mk : Nat → Nat → Nat → Source) : List Token → Option Source
  | [.num a, .comma, .num b, .comma, .num c] => some (mk a b c)
  | _ => none

/-- The source line that a mnemonic and its operands write (R62, R63). -/
def sourceOf (mnemonic : List Char) (args : List Token) : Option Source :=
  if mnemonic = ['C', 'O', 'N', 'F', 'I', 'G'] then
    match args with
    | [.num w, .comma, .num h] => some (.config w h)
    | _ => none
  else if mnemonic = ['P', 'I', 'X', 'E', 'L'] then threeNumbers .pixel args
  else if mnemonic = ['E', 'N', 'C', 'O', 'D', 'E'] then
    match args with
    | [] => some .encode
    | _ => none
  else if mnemonic = ['C', 'B', '_', 'L', 'O', 'O', 'K', 'U', 'P'] then
    match args with
    | [ch, .comma, .num val, .comma, .num slot] => (channelToken ch).map (fun c => .cbLookup c val slot)
    | _ => none
  else if mnemonic = ['M', 'A', 'P', '_', 'L', 'O', 'O', 'K', 'U', 'P'] then
    match args with
    | [.num p] => some (.mapLookup p)
    | _ => none
  else if mnemonic = ['T', 'A', 'K', 'E'] then
    match args with
    | [] => some .take
    | _ => none
  else if mnemonic = ['R', 'E', 'A', 'D'] then
    match args with
    | [.name reg] => (registerNamed reg).map .read
    | _ => none
  else if mnemonic = ['S', 'I', 'N', 'K'] then
    match args with
    | [.num k] => some (.sink k)
    | _ => none
  else if mnemonic = ['S', 'I', 'N', 'K', 'E', 'R', 'R'] then
    match args with
    | [] => some .sinkErr
    | _ => none
  else if mnemonic = ['F', 'I', 'L', 'L'] then threeNumbers .fill args
  else if mnemonic = ['F', 'R', 'A', 'M', 'E'] then (pixelTuples args).map .frame
  else if mnemonic = ['S', 'H', 'O', 'W'] then threeNumbers .showFrame args
  else none

/-- A line of text: nothing for a blank or comment line, one source line otherwise; the outer `none` refuses it. -/
def parseLine (line : List Char) : Option (Option Source) :=
  match tokensFrom [] line with
  | none => none
  | some [] => some none
  | some (.name m :: args) => (sourceOf m args).map some
  | some _ => none

/-- A program's lines, in order (R62: "One command per line"). -/
def parseProgram : List (List Char) → Option (List Source)
  | [] => some []
  | line :: rest =>
    match parseLine line, parseProgram rest with
    | some none, some prog => some prog
    | some (some src), some prog => some (src :: prog)
    | _, _ => none

/-! Source lines to actions (R62, R63). -/

/-- What a source line has the host or the sink do. -/
inductive Action where
  | command (i : Instr)
  | move (m : Move)
  /-- A register read: an observation, no step (R27). -/
  | observe (ra : BitVec 3)
deriving DecidableEq, Repr

/-- PIXEL with natural-number operands that fit (R56). -/
def pixelInstr (r g b : Nat) : Instr := .pixel (BitVec.ofNat 8 r) (BitVec.ofNat 8 g) (BitVec.ofNat 8 b)

/-- The actions of a well-formed line; `n` is the N of the program's last CONFIG (R63). -/
def actionsOf (n : Nat) : Source → List Action
  | .config w h => [.command (.config (BitVec.ofNat 12 w) (BitVec.ofNat 12 h))]
  | .pixel r g b => [.command (pixelInstr r g b)]
  | .encode => [.command .encode]
  | .cbLookup ch val slot => [.command (.cbLookup (BitVec.ofNat 2 ch) (BitVec.ofNat 8 val) (BitVec.ofNat 3 slot))]
  | .mapLookup p => [.command (.mapLookup (BitVec.ofNat 24 p))]
  | .take => [.move .take]
  | .read ra => [.observe ra]
  | .sink k => List.replicate k (.move .emit)
  | .sinkErr => [.move .sinkError]
  | .fill r g b => List.replicate n (.command (pixelInstr r g b))
  | .frame pixels => pixels.map (fun px => .command (pixelInstr px.1 px.2.1 px.2.2)) ++ [.command .encode]
  | .showFrame r g b => List.replicate n (.command (pixelInstr r g b)) ++ [.command .encode]

/-- The N that holds after a line: `N = W × H` of the last CONFIG (R63). -/
def sizeAfter (n : Option Nat) : Source → Option Nat
  | .config w h => some (w * h)
  | _ => n

/-- A program's actions; `none` where the assembler refuses a line. -/
def assembleFrom : Option Nat → List Source → Option (List Action)
  | _, [] => some []
  | n, src :: rest =>
    if src.wellFormed n then (assembleFrom (sizeAfter n src) rest).map (actionsOf (n.getD 0) src ++ ·) else none

/-- A program is assembled from its first line, before any CONFIG. -/
def assemble (prog : List Source) : Option (List Action) := assembleFrom none prog

/-- The word an action puts on the command port. -/
def Action.word : Action → Option Word
  | .command i => some (encode i)
  | .move _ => none
  | .observe _ => none

/-- The turn an action takes. -/
def Action.turn : Action → Option Turn
  | .command _ => some (.move .command)
  | .move m => some (.move m)
  | .observe _ => none

/-- Place a program's words behind the words already offered, and its turns behind the turns already to come. How a
line's action meets a block that is not ready for it is the model's choice, DESIGN CHOICE (log 20): all the words are
offered from the start, and each line has exactly its own turns, so a command line met while cmd_ready = 0 uses up its
one turn and does not wait. -/
def State.load (acts : List Action) (s : State) : State :=
  { s with offered := s.offered ++ acts.filterMap Action.word, agenda := s.agenda ++ acts.filterMap Action.turn }

end Sys2Proof.Machine
end

