-- ==== Sys2Proof/Machine/Link.lean ====
section
/-! DEFINITION. The serial link that OUT feeds (spec/20_memory.md R41(e), R51 to R53; 70_reset_and_hazards.md R122): what
the consumer of OUT puts on its line. It is no part of the block, and no step of the machine uses it (log 18). -/

namespace Sys2Proof.Machine

/-- LINE_POLARITY: OPEN, outside the block, an argument of whatever needs the line's levels (R7, R53). -/
inductive LinePolarity where
  | direct
  | inverted
deriving DecidableEq, Repr

/-- The logical cells of one byte on a 7N1 line, in time order: a start bit 0, the seven data bits, least significant
first, and a stop bit 1 (R51, R41(e), R122). -/
def lineCells (b : Byte) : List Bool :=
  false :: ((List.range Config.lineDataBits).map (fun k => (linkPayload b).getLsbD k) ++ [true])

/-- The levels of a byte's cells. -/
def lineLevels (p : LinePolarity) (b : Byte) : List Bool :=
  match p with
  | .direct => lineCells b
  | .inverted => (lineCells b).map (fun c => !c)

/-- The levels of a byte stream, every byte of it in order and back to back (R40, R51). -/
def lineOf (p : LinePolarity) (out : List Byte) : List Bool := out.flatMap (lineLevels p)

end Sys2Proof.Machine
end

