-- ==== Sys2Proof/Machine/Pacer.lean ====
section
/-! DEFINITION. The host pacer (spec/60_exceptions.md R107 to R109): surrounding software that feeds the block frame by
frame, no part of it. Times are natural numbers of an unnamed unit (log 12). -/

namespace Sys2Proof.Machine

/-- What one `ContentSource.next()` yields, and the environment's draws for it. -/
structure PacedFrame where
  /-- The frame: its pixels in raster order, each channel quantized (R84, R89). -/
  pixels : List Pixel
  /-- The ContentSource's delay for this frame. -/
  delay : Nat
  /-- How long `next()` blocked before it returned this item. -/
  wait : Nat
  /-- The turns the agents take, in order, while this frame is encoded and transmitted (R103). -/
  turns : List Turn
  /-- How long encoding and transmitting took, up to the clock's reading for the sleep. -/
  cost : Nat
  /-- How much longer than requested the sleep lasted. -/
  overSleep : Nat
deriving DecidableEq, Repr

/-- A ContentSource: what its `k`-th `next()` returns, `none` for Exhausted. An infinite one never returns `none`
(R107, C6). -/
abbrev ContentSource := Nat → Option PacedFrame

/-! Encoding and transmitting one frame with the block (R107). -/

/-- `PIXEL x N, ENCODE` (R107): the commands of a frame. -/
def frameCommands (pixels : List Pixel) : List Instr :=
  pixels.map (fun px => .pixel (redOf px) (greenOf px) (blueOf px)) ++ [.encode]

/-- The host offers the words of a frame's commands, behind those it already offers. -/
def offerFrame (pixels : List Pixel) (s : State) : State :=
  { s with offered := s.offered ++ (frameCommands pixels).map encode }

/-- How the transmission of a frame ends. -/
inductive Transmission where
  /-- Every word is accepted and `busy = 0`. -/
  | done (s : State)
  /-- The block is in FAULT, which is "fatal to the pacing loop; no retry" (R99, R100). -/
  | fatal (s : State)
  /-- The wait does not end: the turns drawn are used up, and a word is still offered or the block is still BUSY. -/
  | hung (s : State)
  /-- The model itself stops, in states that no run from reset reaches (log 4, log 5). -/
  | stopped (s : State)
deriving DecidableEq, Repr

/-- "wait busy = 0" (R107): take the drawn turns until every word is accepted and `busy = 0`, or the block faults. -/
def transmit : List Turn → State → Transmission
  | [], s =>
    if s.faulted then .fatal s
    else if s.offered.isEmpty && !s.busy then .done s
    else .hung s
  | t :: rest, s =>
    if s.faulted then .fatal s
    else if s.offered.isEmpty && !s.busy then .done s
    else
      match step { s with agenda := t :: s.agenda } with
      | .next s' => transmit rest s'
      | .fault _ => .stopped s
      | .refused _ => .stopped s

/-! The loop. -/

/-- The pacer's state, and the clock it reads. -/
structure Pacer where
  now : Nat
  nextDeadline : Nat
deriving DecidableEq, Repr

/-- `next_deadline <- now()`, once, at start (R107). -/
def pacerStart (now : Nat) : Pacer := { now := now, nextDeadline := now }

/-- When a frame is handed to the encoder: once `next()` has returned it. -/
def frameStart (item : PacedFrame) (p : Pacer) : Nat := p.now + item.wait

/-- The time the pacer asks to sleep: `max(0, next_deadline - now())` (R107). -/
def sleepTime (nextDeadline now : Nat) : Nat := nextDeadline - now

/-- The pacer after one pass of the loop (R107). -/
def pacerNext (item : PacedFrame) (p : Pacer) : Pacer :=
  { now := frameStart item p + item.cost + sleepTime (p.nextDeadline + item.delay) (frameStart item p + item.cost) +
      item.overSleep
    nextDeadline := p.nextDeadline + item.delay }

/-- Why a pacer's run has ended, or that it has not. -/
inductive PacerEnd where
  /-- The source signalled exhaustion, and the loop stopped. -/
  | exhausted
  /-- The passes asked for were made. -/
  | running
  /-- A transmission was fatal. -/
  | faulted
  /-- A transmission hung. -/
  | hung
  /-- The model stopped in a transmission. -/
  | stopped
deriving DecidableEq, Repr

/-- A pacer's run: when each frame was handed to the encoder, the block after it, and how it ended. -/
structure PacerRun where
  starts : List Nat
  block : State
  ended : PacerEnd
deriving DecidableEq, Repr

/-- At most so many passes of the loop of R107, from the source's `k`-th item on. -/
def pacerLoop (source : ContentSource) : Nat → Nat → Pacer → State → PacerRun
  | 0, _, _, s => ⟨[], s, .running⟩
  | passes + 1, k, p, s =>
    match source k with
    | none => ⟨[], s, .exhausted⟩
    | some item =>
      match transmit item.turns (offerFrame item.pixels s) with
      | .done t =>
        let rest := pacerLoop source passes (k + 1) (pacerNext item p) t
        { rest with starts := frameStart item p :: rest.starts }
      | .fatal t => ⟨[frameStart item p], t, .faulted⟩
      | .hung t => ⟨[frameStart item p], t, .hung⟩
      | .stopped t => ⟨[frameStart item p], t, .stopped⟩

/-- A pacer started at time `now` over the block `s`, for at most so many passes. An infinite source's run is every one
of these (R105: a claim about it is "a claim about every finite prefix"). -/
def pacerRun (source : ContentSource) (passes now : Nat) (s : State) : PacerRun :=
  pacerLoop source passes 0 (pacerStart now) s

/-- The delay of the source's `k`-th item. -/
def delayAt (source : ContentSource) (k : Nat) : Nat :=
  match source k with
  | some item => item.delay
  | none => 0

/-- The sum of the delays before the `k`-th frame (R108). -/
def delaysBefore (source : ContentSource) : Nat → Nat
  | 0 => 0
  | k + 1 => delaysBefore source k + delayAt source k

end Sys2Proof.Machine
end

