-- ==== Sys2Proof/Machine/Quantizer.lean ====
section
/-! DEFINITION. The host-side quantizer and gamma (spec/42_frame_encoder.md R89 to R91): surrounding software that
produces PIXEL operands, no part of the block. QUANT_SCALE and QUANT_ROUND are OPEN and stand as arguments (R7). -/

namespace Sys2Proof.Machine

/-- A normalized channel input: any real, and the values of a host's number format that are no reals (R89, N14;
log 11). -/
inductive NormValue where
  | finite (c : ℝ)
  | posInf
  | negInf
  | nan

/-- QUANT_SCALE ∈ {255, 256} (R89). -/
inductive QuantScale where
  | by255
  | by256
deriving DecidableEq, Repr

/-- The scale factor. -/
def QuantScale.factor : QuantScale → ℝ
  | .by255 => 255
  | .by256 => 256

/-- What R89 asks of QUANT_ROUND: "a monotone function from the reals to the integers that is the identity on
integers". -/
def LegalRound (round : ℝ → Int) : Prop :=
  (∀ a b : ℝ, a ≤ b → round a ≤ round b) ∧ ∀ n : Int, round n = n

/-- `min(255, max(0, v))` (R89). -/
def clampByte (v : Int) : Byte := BitVec.ofNat 8 (min 255 (max 0 v)).toNat

/-- R91: gamma is the identity. -/
def gamma (c : NormValue) : NormValue := c

/-- R89's Q, in the order scale, round, clamp; infinities clamp (N14), and NaN is refused (I4). -/
def quantize (scale : QuantScale) (round : ℝ → Int) (c : NormValue) : Option Byte :=
  match gamma c with
  | .finite q => some (clampByte (round (q * scale.factor)))
  | .posInf => some 255#8
  | .negInf => some 0#8
  | .nan => none

/-- The PIXEL command of a normalized pixel (R89); `none` if a channel is NaN. -/
def quantizedPixel (scale : QuantScale) (round : ℝ → Int) (r g b : NormValue) : Option Instr :=
  match quantize scale round r, quantize scale round g, quantize scale round b with
  | some r', some g', some b' => some (.pixel r' g' b')
  | _, _, _ => none

end Sys2Proof.Machine
end

