-- ==== Sys2Proof/Safety.lean ====
section
/-! DEFINITION. What the claims call a sound state, a good run and the end of a run. -/

namespace Sys2Proof.Safety

open Sys2Proof.Machine

/-- R61's eight symbol bytes. -/
def symbolBytes : List Byte := [0x12#8, 0x13#8, 0x1A#8, 0x1B#8, 0x52#8, 0x53#8, 0x5A#8, 0x5B#8]

/-- The invariant of the reachable states, clause by clause from the rules named. -/
structure Inv (s : State) : Prop where
  /-- 1 ≤ FM_CAPACITY ≤ 2^24 − 1 (R7). -/
  capacity_range : 1 ≤ s.fmCapacity ∧ s.fmCapacity ≤ 2 ^ 24 - 1
  /-- ERR ≠ 0 exactly when PHASE = FAULT (R19). -/
  err_iff_fault : s.err ≠ .noFault ↔ s.phase = .fault
  /-- FAULT_INFO is 0 unless PHASE = FAULT (R25). -/
  info_zero : s.phase ≠ .fault → s.faultInfo = 0#32
  /-- Both dimensions are 0 in UNCONFIGURED (R20). -/
  unconfigured_zero : s.phase = .unconfigured → s.width = 0#12 ∧ s.height = 0#12
  /-- Both dimensions are nonzero once configured (R83). -/
  configured_nonzero : s.phase = .idle ∨ s.phase = .busy → s.width ≠ 0#12 ∧ s.height ≠ 0#12
  /-- W × H ≤ FM_CAPACITY (R83, D10). -/
  frame_fits : s.pixelCount ≤ s.fmCapacity
  /-- WR_PTR ≤ N (R21). -/
  wrPtr_le : s.wrPtr.toNat ≤ s.pixelCount
  /-- ENC_POS ≤ 8N (R92). -/
  encPos_le : s.encPos.toNat ≤ s.frameSize
  /-- While BUSY the whole frame is loaded and not yet emitted (R85, R86). -/
  busy_loaded : s.phase = .busy → s.wrPtr.toNat = s.pixelCount ∧ s.encPos.toNat < s.frameSize
  /-- Every element of the frame being loaded was written (R29). -/
  loaded_written : ∀ i, i < s.wrPtr.toNat → (FrameMem.read s.fm i).isSome = true
  /-- The frame memory keeps its canonical form. -/
  fm_canonical : FrameMem.wf s.fm = true
  /-- No element beyond the frame is written (R35: "Only `i < N` is used"). -/
  fm_inside : ∀ i, s.pixelCount ≤ i → FrameMem.read s.fm i = none
  /-- Every emitted byte is a symbol byte (R61). -/
  out_symbols : ∀ b ∈ s.out, b ∈ symbolBytes

/-- R88: outside FAULT, OUT holds whole frames, and while BUSY also the ENC_POS bytes of the frame in flight; FRAME_COUNT
counts the whole frames, modulo 2^32 (R22). In FAULT the last frame may have been cut short. -/
def WholeFrames (s : State) : Prop :=
  ∃ k : Nat, s.frameCount = BitVec.ofNat 32 k ∧
    match s.phase with
    | .busy => s.out.length = k * s.frameSize + s.encPos.toNat
    | .fault => s.out.length = k * s.frameSize ∨
        (s.encPos.toNat < s.frameSize ∧ s.out.length = k * s.frameSize + s.encPos.toNat)
    | .idle => s.out.length = k * s.frameSize
    | .unconfigured => k = 0 ∧ s.out = []

/-- `n` steps one after another, ending at the first stop. -/
def runSteps : Nat → State → Host.Outcome State Machine.Fault Refusal
  | 0, s => .next s
  | n + 1, s =>
    match step s with
    | .next t => runSteps n t
    | .fault f => .fault f
    | .refused r => .refused r

/-- A good run's states: "every claim about a good run takes `ERR = 0` as a premise" (R105). -/
def Good (s : State) : Prop := s.err = .noFault

/-- R105's three kinds of a state in which no block step is enabled. -/
inductive EndKind where
  | complete
  | faulted
  | stuck
deriving DecidableEq, Repr

/-- No turn still to come takes a move from this state: the sink never accepts and never errs, the host never takes
and never resets. The environment's future is the agenda (log 19). -/
abbrev NothingComes (s : State) : Prop := ∀ t ∈ s.agenda, moveOf t s = none

/-- The end a state is, or `none` where the run has not ended: a command or a response-take can still be accepted, or
the sink still accepts, errs, or a reset comes (R105, R104). -/
def endKind (s : State) : Option EndKind :=
  match s.phase with
  | .fault => some .faulted
  | .busy => if NothingComes s then some .stuck else none
  | .unconfigured => endWhileReady s
  | .idle => endWhileReady s
where
  /-- In UNCONFIGURED and IDLE: a pending response, a word offered, or neither. -/
  endWhileReady (s : State) : Option EndKind :=
    if s.rspValid then (if NothingComes s then some .stuck else none)
    else if s.cmdValid then none
    else some .complete

/-- The observation of a run that has ended: "`OUT`, FRAME_COUNT and the registers" (R105). FRAME_COUNT is register
3. -/
def observation (s : State) : List Byte × List Word :=
  (s.out, [0#3, 1#3, 2#3, 3#3, 4#3, 5#3, 6#3, 7#3].map (fun ra => readRegister ra s))

/-- The reset input has the next turn: its own, or a cycle in which it is asserted (R97). -/
def ResetIsNext (s : State) (ts : List Turn) : Prop :=
  s.agenda = .move .reset :: ts ∨ ∃ c : Machine.Cycle, c.reset = true ∧ s.agenda = .cycle c :: ts

/-- The block's own state of R33, without the environment's fields: what an agent's turn may leave unchanged. -/
def SameBlock (s t : State) : Prop :=
  t.phase = s.phase ∧ t.err = s.err ∧ t.width = s.width ∧ t.height = s.height ∧ t.wrPtr = s.wrPtr ∧
  t.frameCount = s.frameCount ∧ t.encPos = s.encPos ∧ t.faultInfo = s.faultInfo ∧ t.rspValid = s.rspValid ∧
  t.rspData = s.rspData ∧ t.fm = s.fm ∧ t.out = s.out

/-- The block's state as it is, the host's word `word` and turn `ts` behind it gone: what accepting a word leaves before
its own effect (R82). -/
def Accepted (s : State) (ts : List Turn) (ws : List Word) : State := { s with agenda := ts, offered := ws }

/-- "Accepted in: UNCONFIGURED or IDLE, with `RSP_VALID = 0`" (R83 to R85, R76, R81): with the command's word on the
port and the HOST's turn next, the block runs the command exactly when cmd_ready; otherwise the word stays offered. -/
def AcceptedOnlyWhenReady (i : Instr) : Prop :=
  ∀ (s : State) (ts : List Turn) (ws : List Word), s.agenda = .move .command :: ts → s.offered = encode i :: ws →
    (((s.phase = .unconfigured ∨ s.phase = .idle) ∧ s.rspValid = false) → step s = exec i (Accepted s ts ws)) ∧
    (¬ ((s.phase = .unconfigured ∨ s.phase = .idle) ∧ s.rspValid = false) →
      step s = .next { s with agenda := ts })

/-- "ILLEGAL_CMD, for a reserved bit" (R83 to R85, R76, R81): a word with this opcode and a bit of the reserved mask
set takes ILLEGAL_CMD when it is accepted, and nothing else happens. -/
def ReservedBitFaults (op : BitVec 4) (mask : Word) : Prop :=
  ∀ (word : Word) (s : State) (ts : List Turn) (ws : List Word), opcodeOf word = op → word &&& mask ≠ 0#32 →
    s.agenda = .move .command :: ts → s.offered = word :: ws → s.cmdReady = true →
    step s = .next { Accepted s ts ws with err := .illegalCmd, faultInfo := word, phase := .fault }

end Sys2Proof.Safety
end

