-- ==== Sys2Proof/Certificates/Slice0/Obligations.lean ====
section
/-! DEFINITION. The statements for the provers, each formalising the rules of spec/ that its docstring names. -/

open Sys2Proof Sys2Proof.Machine Sys2Proof.Safety

/-! Encoding (30_encoding.md). -/

/-- R59: `decode` loses no field of any command: encoding a command and decoding the word gives it back. -/
def Obligations.DecodeInvertsEncode : Prop := ∀ i : Instr, decode (encode i) = .ok i

/-- R59: a legal word is the encoding of the command it decodes to, so legal words and commands correspond one to one. -/
def Obligations.EncodeInvertsDecode : Prop := ∀ (w : Word) (i : Instr), decode w = .ok i → encode i = w

/-- R59: the decode function, opcode by opcode, and that legal words correspond one to one to the commands. -/
def Obligations.DecodeByOpcode : Prop :=
  (∀ w : Word, w.extractLsb 31 28 = 0x1#4 → w &&& 0x0F000000#32 = 0#32 →
    decode w = .ok (.config (w.extractLsb 23 12) (w.extractLsb 11 0))) ∧
  (∀ w : Word, w.extractLsb 31 28 = 0x2#4 → w &&& 0x0F000000#32 = 0#32 →
    decode w = .ok (.pixel (w.extractLsb 23 16) (w.extractLsb 15 8) (w.extractLsb 7 0))) ∧
  (∀ w : Word, w.extractLsb 31 28 = 0x3#4 → w &&& 0x0FFFFFFF#32 = 0#32 → decode w = .ok .encode) ∧
  (∀ w : Word, w.extractLsb 31 28 = 0x4#4 → w &&& 0x0FFC00F8#32 = 0#32 →
    decode w = .ok (.cbLookup (w.extractLsb 17 16) (w.extractLsb 15 8) (w.extractLsb 2 0))) ∧
  (∀ w : Word, w.extractLsb 31 28 = 0x5#4 → w &&& 0x0F000000#32 = 0#32 →
    decode w = .ok (.mapLookup (w.extractLsb 23 0))) ∧
  (∀ w : Word,
    (w.extractLsb 31 28 = 0x0#4 ∨ 0x6#4 ≤ w.extractLsb 31 28 ∨
      ((w.extractLsb 31 28 = 0x1#4 ∨ w.extractLsb 31 28 = 0x2#4 ∨ w.extractLsb 31 28 = 0x5#4) ∧
        w &&& 0x0F000000#32 ≠ 0#32) ∨
      (w.extractLsb 31 28 = 0x3#4 ∧ w &&& 0x0FFFFFFF#32 ≠ 0#32) ∨
      (w.extractLsb 31 28 = 0x4#4 ∧ w &&& 0x0FFC00F8#32 ≠ 0#32)) →
    ∃ r, decode w = .error r) ∧
  (∀ (w w' : Word) (i : Instr), decode w = .ok i → decode w' = .ok i → w = w') ∧
  (∀ i : Instr, ∃ w : Word, decode w = .ok i)

/-- R58: which words are illegal, and what accepting one does (R82: it consumes the word, and only the fault entry of
R98 is written). -/
def Obligations.IllegalWordFaults : Prop :=
  (∀ w : Word, (∃ r, decode w = .error r) ↔
    w.extractLsb 31 28 = 0x0#4 ∨ 0x6#4 ≤ w.extractLsb 31 28 ∨
    (w.extractLsb 31 28 = 0x1#4 ∧ w &&& 0x0F000000#32 ≠ 0#32) ∨
    (w.extractLsb 31 28 = 0x2#4 ∧ w &&& 0x0F000000#32 ≠ 0#32) ∨
    (w.extractLsb 31 28 = 0x3#4 ∧ w &&& 0x0FFFFFFF#32 ≠ 0#32) ∨
    (w.extractLsb 31 28 = 0x4#4 ∧ w &&& 0x0FFC00F8#32 ≠ 0#32) ∨
    (w.extractLsb 31 28 = 0x5#4 ∧ w &&& 0x0F000000#32 ≠ 0#32)) ∧
  (∀ (w : Word) (r : Illegal) (s : State) (ts : List Turn) (ws : List Word), decode w = .error r →
    s.agenda = .move .command :: ts → s.offered = w :: ws → s.cmdReady = true →
    step s = .next { Accepted s ts ws with err := .illegalCmd, faultInfo := w, phase := .fault })

/-- A few words written out from the spec's own encodings (R83, R84, R85, R76, R81 and V12) decode to the commands
they stand for. -/
def Obligations.SampleWordsDecode : Prop :=
  decode 0x10002002#32 = .ok (.config 2#12 2#12) ∧
  decode 0x20123456#32 = .ok (.pixel 0x12#8 0x34#8 0x56#8) ∧
  decode 0x30000000#32 = .ok .encode ∧
  decode 0x4002FF07#32 = .ok (.cbLookup 2#2 0xFF#8 7#3) ∧
  decode 0x50FFFFFF#32 = .ok (.mapLookup 0xFFFFFF#24)

/-! The step and the ports. -/

/-- R82: when the word on the command port decodes to `i`, the HOST's turn is next and the port is ready, the step
consumes the word and runs `i`; and `withFetchWord` arranges exactly that. -/
def Obligations.StepRunsDecodedCommand : Prop :=
  (∀ (s : State) (w : Word) (i : Instr) (ts : List Turn) (ws : List Word), decode w = .ok i →
    s.agenda = .move .command :: ts → s.offered = w :: ws → s.cmdReady = true →
    step s = exec i { s with agenda := ts, offered := ws }) ∧
  (∀ (s : State) (nbits w : Nat) (i : Instr), decodeTableWord nbits w = some i → s.cmdReady = true →
    step (s.withFetchWord nbits w) = exec i s)

/-- R54, R17, R118: while cmd_ready = 0 (BUSY, FAULT, or a response pending) the HOST's turn changes nothing but the
agenda, so the offered word stays offered, "neither lost nor reordered"; and cmd_ready is 0 exactly then. -/
def Obligations.StalledCommandStaysOffered : Prop :=
  (∀ s : State, s.cmdReady = false ↔ s.phase = .busy ∨ s.phase = .fault ∨ s.rspValid = true) ∧
  (∀ (s : State) (ts : List Turn), s.agenda = .move .command :: ts → s.cmdReady = false →
    step s = .next { s with agenda := ts })

/-- The model's choice (log 2): a turn whose step is not enabled, and an empty agenda, change nothing else. Which steps
are enabled is R82's, R28's, R86's and R99's. -/
def Obligations.DisabledTurnChangesNothing : Prop :=
  (∀ s : State, s.agenda = [] → step s = .next s) ∧
  (∀ (s : State) (ts : List Turn), s.agenda = .move .take :: ts → s.rspValid = false →
    step s = .next { s with agenda := ts }) ∧
  (∀ (s : State) (ts : List Turn), s.agenda = .move .emit :: ts → s.phase ≠ .busy →
    step s = .next { s with agenda := ts }) ∧
  (∀ (s : State) (ts : List Turn), s.agenda = .move .sinkError :: ts → s.phase = .fault →
    step s = .next { s with agenda := ts }) ∧
  (∀ (s : State) (ts : List Turn), s.agenda = .move .command :: ts → s.offered = [] →
    step s = .next { s with agenda := ts })

/-- R97: among the events that meet in one cycle, reset wins, then an enabled sink error, then the emission step or the
command acceptance, which are never both enabled; a cycle behaves as the one move that wins, and when reset or a sink
error wins, the offered words stay offered. -/
def Obligations.CyclePriority : Prop :=
  (∀ s : State, ¬ (enabled .emit s = true ∧ enabled .command s = true)) ∧
  (∀ (s : State) (c : Cycle) (ts : List Turn), s.agenda = .cycle c :: ts → c.reset = true →
    step s = step { s with agenda := .move .reset :: ts }) ∧
  (∀ (s : State) (c : Cycle) (ts : List Turn), s.agenda = .cycle c :: ts → c.reset = false → c.sinkError = true →
    s.phase ≠ .fault → step s = step { s with agenda := .move .sinkError :: ts }) ∧
  (∀ (s : State) (c : Cycle) (ts : List Turn), s.agenda = .cycle c :: ts → c.reset = false →
    (c.sinkError = false ∨ s.phase = .fault) → s.phase = .busy → c.sinkReady = true →
    step s = step { s with agenda := .move .emit :: ts }) ∧
  (∀ (s : State) (c : Cycle) (ts : List Turn), s.agenda = .cycle c :: ts → c.reset = false →
    (c.sinkError = false ∨ s.phase = .fault) → ¬ (s.phase = .busy ∧ c.sinkReady = true) →
    step s = step { s with agenda := .move .command :: ts }) ∧
  (∀ (s t : State) (c : Cycle) (ts : List Turn), s.agenda = .cycle c :: ts →
    (c.reset = true ∨ (c.sinkError = true ∧ s.phase ≠ .fault)) → step s = .next t → t.offered = s.offered)

/-- R17, R39: the level outputs, and `out_data` while BUSY is the byte the next emission step appends. -/
def Obligations.LevelOutputs : Prop :=
  (∀ s : State, (s.busy = true ↔ s.phase = .busy) ∧ (s.faulted = true ↔ s.phase = .fault) ∧
    (s.cmdReady = true ↔ (s.phase = .unconfigured ∨ s.phase = .idle) ∧ s.rspValid = false) ∧
    (s.outValid = true ↔ s.phase = .busy) ∧ (readRegister 0#3 s).getLsbD 2 = s.rspValid) ∧
  (∀ (s t : State) (ts : List Turn), s.agenda = .move .emit :: ts → s.phase = .busy → step s = .next t →
    ∃ b, s.outData = some b ∧ t.out = s.out ++ [b])

/-- R18 to R20, R24 to R26: the fields of every register the port shows, and the reserved bits and addresses read 0. -/
def Obligations.RegisterPortLayout : Prop :=
  ∀ s : State,
    (readRegister 0#3 s).extractLsb 1 0 = s.phase.code ∧
    (readRegister 0#3 s).getLsbD 2 = s.rspValid ∧
    (readRegister 0#3 s).getLsbD 3 = false ∧
    (readRegister 0#3 s).extractLsb 7 4 = s.err.code ∧
    (readRegister 0#3 s).extractLsb 31 8 = 0#24 ∧
    (readRegister 1#3 s).extractLsb 23 12 = s.width ∧
    (readRegister 1#3 s).extractLsb 11 0 = s.height ∧
    (readRegister 1#3 s).extractLsb 31 24 = 0#8 ∧
    (readRegister 2#3 s).extractLsb 23 0 = s.wrPtr ∧
    (readRegister 2#3 s).extractLsb 31 24 = 0#8 ∧
    readRegister 3#3 s = s.frameCount ∧
    (readRegister 4#3 s).extractLsb 26 0 = s.encPos ∧
    (readRegister 4#3 s).extractLsb 31 27 = 0#5 ∧
    readRegister 5#3 s = s.faultInfo ∧
    readRegister 6#3 s = 0#32 ∧ readRegister 7#3 s = 0#32

/-! The commands. Each statement gives the next state as the old one with the written fields named, so everything not
named is unchanged. -/

/-- R83, CONFIG. -/
def Obligations.ConfigCommand : Prop :=
  (∀ (w h : BitVec 12) (s : State), s.cmdReady = true → s.phase = .idle →
    exec (.config w h) s =
      .next { s with err := .configLocked, faultInfo := encode (.config w h), phase := .fault }) ∧
  (∀ (w h : BitVec 12) (s : State), s.cmdReady = true → s.phase = .unconfigured → (w = 0#12 ∨ h = 0#12) →
    exec (.config w h) s =
      .next { s with err := .badDimensions, faultInfo := encode (.config w h), phase := .fault }) ∧
  (∀ (w h : BitVec 12) (s : State), s.cmdReady = true → s.phase = .unconfigured →
    w.toNat * h.toNat > s.fmCapacity →
    exec (.config w h) s =
      .next { s with err := .badDimensions, faultInfo := encode (.config w h), phase := .fault }) ∧
  (∀ (w h : BitVec 12) (s : State), s.cmdReady = true → s.phase = .unconfigured → w ≠ 0#12 → h ≠ 0#12 →
    w.toNat * h.toNat ≤ s.fmCapacity →
    exec (.config w h) s = .next { s with width := w, height := h, wrPtr := 0#24, phase := .idle }) ∧
  (∀ w h : BitVec 12, AcceptedOnlyWhenReady (.config w h)) ∧
  ReservedBitFaults 0x1#4 0x0F000000#32

/-- R84, PIXEL, with R37's layout of the stored element and the frame of FM; raster index k is column k mod W of row
k / W. The clause that ends in `elementAbsent` is the model's own stop, where WR_PTR is no index of the frame memory
(log 5), in states no run reaches. -/
def Obligations.PixelCommand : Prop :=
  (∀ (r g b : Byte) (s : State), s.cmdReady = true → s.phase = .unconfigured →
    exec (.pixel r g b) s =
      .next { s with err := .notConfigured, faultInfo := encode (.pixel r g b), phase := .fault }) ∧
  (∀ (r g b : Byte) (s : State), s.cmdReady = true → s.phase = .idle →
    s.wrPtr.toNat = s.width.toNat * s.height.toNat →
    exec (.pixel r g b) s =
      .next { s with err := .frameOverflow, faultInfo := encode (.pixel r g b), phase := .fault }) ∧
  (∀ (r g b : Byte) (s : State), s.cmdReady = true → s.phase = .idle →
    s.wrPtr.toNat ≠ s.width.toNat * s.height.toNat → s.wrPtr.toNat < s.fmCapacity →
    ∃ m : FrameMem,
      exec (.pixel r g b) s = .next { s with fm := m, wrPtr := s.wrPtr + 1#24 } ∧
      (∃ px : Pixel, FrameMem.read m s.wrPtr.toNat = some px ∧ px.extractLsb 23 16 = r ∧
        px.extractLsb 15 8 = g ∧ px.extractLsb 7 0 = b) ∧
      (∀ a : Nat, a ≠ s.wrPtr.toNat → FrameMem.read m a = FrameMem.read s.fm a)) ∧
  (∀ (r g b : Byte) (s : State), s.cmdReady = true → s.phase = .idle →
    s.wrPtr.toNat ≠ s.width.toNat * s.height.toNat → s.fmCapacity ≤ s.wrPtr.toNat →
    exec (.pixel r g b) s = .fault .elementAbsent) ∧
  (∀ w k : Nat, 1 ≤ w → rasterIndex w (k % w, k / w) = k) ∧
  (∀ r g b : Byte, AcceptedOnlyWhenReady (.pixel r g b)) ∧
  ReservedBitFaults 0x2#4 0x0F000000#32

/-- R85, ENCODE. -/
def Obligations.EncodeCommand : Prop :=
  (∀ s : State, s.cmdReady = true → s.phase = .unconfigured →
    exec .encode s = .next { s with err := .notConfigured, faultInfo := 0x30000000#32, phase := .fault }) ∧
  (∀ s : State, s.cmdReady = true → s.phase = .idle → s.wrPtr.toNat ≠ s.width.toNat * s.height.toNat →
    exec .encode s = .next { s with err := .frameUnderflow, faultInfo := 0x30000000#32, phase := .fault }) ∧
  (∀ s : State, s.cmdReady = true → s.phase = .idle → s.wrPtr.toNat = s.width.toNat * s.height.toNat →
    exec .encode s = .next { s with encPos := 0#27, phase := .busy }) ∧
  AcceptedOnlyWhenReady .encode ∧
  ReservedBitFaults 0x3#4 0x0FFFFFFF#32

/-- R76, CB_LOOKUP: the response is the codebook's byte, zero-extended; CH = 3 takes BAD_CHANNEL; and
the corner cases that answer 0x5B. -/
def Obligations.CbLookupCommand : Prop :=
  (∀ (ch : BitVec 2) (val : Byte) (slot : Slot) (s : State), s.cmdReady = true → ch = 3#2 →
    exec (.cbLookup ch val slot) s =
      .next { s with err := .badChannel, faultInfo := encode (.cbLookup ch val slot), phase := .fault }) ∧
  (∀ (val : Byte) (slot : Slot) (s : State), s.cmdReady = true →
    exec (.cbLookup 0#2 val slot) s =
      .next { s with rspValid := true, rspData := (codebook .red val slot).setWidth 32 }) ∧
  (∀ (val : Byte) (slot : Slot) (s : State), s.cmdReady = true →
    exec (.cbLookup 1#2 val slot) s =
      .next { s with rspValid := true, rspData := (codebook .green val slot).setWidth 32 }) ∧
  (∀ (val : Byte) (slot : Slot) (s : State), s.cmdReady = true →
    exec (.cbLookup 2#2 val slot) s =
      .next { s with rspValid := true, rspData := (codebook .blue val slot).setWidth 32 }) ∧
  (∀ (c : Channel) (slot : Slot), codebook c 0#8 slot = 0x5B#8) ∧
  (∀ (v : Byte) (slot : Slot), 3 ≤ slot.toNat → codebook .green v slot = 0x5B#8) ∧
  (∀ (v : Byte) (slot : Slot), slot.toNat < 2 ∨ 5 < slot.toNat → codebook .red v slot = 0x5B#8) ∧
  (∀ (v : Byte) (slot : Slot), slot.toNat < 5 → codebook .blue v slot = 0x5B#8) ∧
  (∀ (ch : BitVec 2) (val : Byte) (slot : Slot), AcceptedOnlyWhenReady (.cbLookup ch val slot)) ∧
  ReservedBitFaults 0x4#4 0x0FFC00F8#32

/-- R81, MAP_LOOKUP: x in bits 23:12 and y in bits 11:0 of the response, with its corner cases P = 0,
P = N − 1 and W = 1. -/
def Obligations.MapLookupCommand : Prop :=
  (∀ (p : BitVec 24) (s : State), s.cmdReady = true → s.phase = .unconfigured →
    exec (.mapLookup p) s =
      .next { s with err := .notConfigured, faultInfo := encode (.mapLookup p), phase := .fault }) ∧
  (∀ (p : BitVec 24) (s : State), s.cmdReady = true → s.phase = .idle →
    s.width.toNat * s.height.toNat ≤ p.toNat →
    exec (.mapLookup p) s =
      .next { s with err := .badIndex, faultInfo := encode (.mapLookup p), phase := .fault }) ∧
  (∀ (p : BitVec 24) (s : State), s.cmdReady = true → s.phase = .idle →
    p.toNat < s.width.toNat * s.height.toNat →
    ∃ rsp : Word,
      exec (.mapLookup p) s = .next { s with rspValid := true, rspData := rsp } ∧
      (rsp.extractLsb 23 12).toNat = (amap s.width.toNat p.toNat).1 ∧
      (rsp.extractLsb 11 0).toNat = (amap s.width.toNat p.toNat).2 ∧
      rsp.extractLsb 31 24 = 0#8) ∧
  (∀ w : Nat, amap w 0 = (0, 0)) ∧
  (∀ w h : Nat, 1 ≤ w → 1 ≤ h → amap w (w * h - 1) = if h % 2 = 0 then (0, h - 1) else (w - 1, h - 1)) ∧
  (∀ p : Nat, amap 1 p = (0, p)) ∧
  (∀ p : BitVec 24, AcceptedOnlyWhenReady (.mapLookup p)) ∧
  ReservedBitFaults 0x5#4 0x0F000000#32

/-! The other steps. -/

/-- R86, the emission step: the byte, the advance, and what the final step of a frame also does; while the sink holds
back, the block stays BUSY and emits nothing. -/
def Obligations.EmissionStep : Prop :=
  (∀ (s : State) (ts : List Turn) (px : Pixel), s.agenda = .move .emit :: ts → s.phase = .busy →
    s.encPos.toNat / 8 < s.width.toNat * s.height.toNat →
    FrameMem.read s.fm ((amap s.width.toNat (s.encPos.toNat / 8)).2 * s.width.toNat +
      (amap s.width.toNat (s.encPos.toNat / 8)).1) = some px →
    ∃ byte : Byte,
      byte = sym (group (pack (px.extractLsb 23 16) (px.extractLsb 15 8) (px.extractLsb 7 0))
        (BitVec.ofNat 3 (s.encPos.toNat % 8))) ∧
      s.outData = some byte ∧
      (s.encPos.toNat + 1 ≠ 8 * (s.width.toNat * s.height.toNat) →
        step s = .next { s with agenda := ts, out := s.out ++ [byte], encPos := s.encPos + 1#27 }) ∧
      (s.encPos.toNat + 1 = 8 * (s.width.toNat * s.height.toNat) →
        step s = .next { s with
          agenda := ts
          out := s.out ++ [byte]
          encPos := s.encPos + 1#27
          phase := .idle
          wrPtr := 0#24
          frameCount := s.frameCount + 1#32 })) ∧
  (∀ s : State, s.phase = .busy →
    (s.agenda = [] → step s = .next s) ∧
    (∀ ts : List Turn, s.agenda = .move .command :: ts → step s = .next { s with agenda := ts }) ∧
    (∀ (sinkReady : Bool) (ts : List Turn), s.agenda = .cycle ⟨false, false, sinkReady⟩ :: ts → sinkReady = false →
      step s = .next { s with agenda := ts }))

/-- The model's own stops of an emission step (log 4, log 5), in states no run reaches: an index outside AMAP's domain
(R77) and an element that holds no value (R29). -/
def Obligations.EmissionStopsWithoutElement : Prop :=
  (∀ (s : State) (ts : List Turn), s.agenda = .move .emit :: ts → s.phase = .busy →
    s.width.toNat * s.height.toNat ≤ s.encPos.toNat / 8 → step s = .fault .addressUndefined) ∧
  (∀ (s : State) (ts : List Turn), s.agenda = .move .emit :: ts → s.phase = .busy →
    s.encPos.toNat / 8 < s.width.toNat * s.height.toNat →
    FrameMem.read s.fm (ridx s.width.toNat (s.encPos.toNat / 8)) = none → step s = .fault .elementUnwritten)

/-- R28: the response slot. A response-take step is enabled only while RSP_VALID = 1, in any phase, and clears it,
handing RSP_DATA to the host; no command is accepted while RSP_VALID = 1; a lookup that completes without a fault fills
the slot; a fault does not clear it. That the taken words are recorded is the model's choice (log 8), and so is that a
turn whose move is not enabled is used up (log 2). -/
def Obligations.ResponseSlot : Prop :=
  (∀ (s : State) (ts : List Turn), s.agenda = .move .take :: ts → s.rspValid = true →
    step s = .next { s with agenda := ts, rspValid := false, taken := s.taken ++ [s.rspData] }) ∧
  (∀ (s : State) (ts : List Turn), s.agenda = .move .take :: ts → s.rspValid = false →
    step s = .next { s with agenda := ts }) ∧
  (∀ (s : State) (ts : List Turn), s.agenda = .move .command :: ts → s.rspValid = true →
    step s = .next { s with agenda := ts }) ∧
  (∀ (ch : BitVec 2) (val : Byte) (slot : Slot) (s t : State), s.cmdReady = true →
    exec (.cbLookup ch val slot) s = .next t → t.phase ≠ .fault →
    ∃ c : Channel, channelOf ch = some c ∧
      t = { s with rspValid := true, rspData := (codebook c val slot).setWidth 32 }) ∧
  (∀ (p : BitVec 24) (s t : State), s.cmdReady = true → exec (.mapLookup p) s = .next t → t.phase ≠ .fault →
    t = { s with rspValid := true, rspData := coordResponse (amap s.width.toNat p.toNat) }) ∧
  (∀ s t : State, step s = .next t → s.phase ≠ .fault → t.phase = .fault →
    t.rspValid = s.rspValid ∧ t.rspData = s.rspData)

/-- R99: the sink error, in every phase but FAULT, where it has no effect. -/
def Obligations.SinkErrorStep : Prop :=
  (∀ (s : State) (ts : List Turn), s.agenda = .move .sinkError :: ts → s.phase ≠ .fault →
    step s = .next { s with agenda := ts, err := .sinkError, faultInfo := s.encPos.setWidth 32, phase := .fault }) ∧
  (∀ (s : State) (ts : List Turn), s.agenda = .move .sinkError :: ts → s.phase = .fault →
    step s = .next { s with agenda := ts })

/-- R114: reset, in any phase: every piece of state takes its reset value. The codebook is no state. -/
def Obligations.ResetStep : Prop :=
  ∀ (s : State) (ts : List Turn), s.agenda = .move .reset :: ts →
    ∃ t : State, step s = .next t ∧ t.phase = .unconfigured ∧ t.err.code = 0#4 ∧ t.width = 0#12 ∧ t.height = 0#12 ∧
      t.wrPtr = 0#24 ∧ t.frameCount = 0#32 ∧ t.encPos = 0#27 ∧ t.faultInfo = 0#32 ∧ t.rspValid = false ∧
      t.rspData = 0#32 ∧ (∀ i : Nat, FrameMem.read t.fm i = none) ∧ t.out = [] ∧
      t.fmCapacity = s.fmCapacity ∧ t.agenda = ts

/-- R115: what reset does to what is in flight: the bytes emitted stay in the ended session's OUT, an offered command
stays offered, the response in the slot is lost; R34 at the machine's own reset state. -/
def Obligations.ResetKeepsOfferedAndSentBytes : Prop :=
  (∀ (s : State) (ts : List Turn), s.agenda = .move .reset :: ts →
    ∃ t : State, step s = .next t ∧ t.pastOut = s.pastOut ++ [s.out] ∧ t.offered = s.offered ∧
      t.taken = s.taken ∧ t.rspValid = false) ∧
  (∀ ra : BitVec 3, readRegister ra State.reset = 0#32)

/-- R100: in FAULT, cmd_ready = 0 and out_valid = 0, and a step that is not a reset leaves the whole block as it is,
but that the host may take the response in the slot; so only reset leaves FAULT, and ERR and FAULT_INFO keep the first
fault's values (R99, R19, R25). -/
def Obligations.FaultIsQuiescent : Prop :=
  ∀ s t : State, s.phase = .fault → step s = .next t →
    s.cmdReady = false ∧ s.outValid = false ∧
    enabled .command s = false ∧ enabled .emit s = false ∧ enabled .sinkError s = false ∧
    (SameBlock s t ∨
      (∃ ts, s.agenda = .move .take :: ts ∧ s.rspValid = true ∧
        t = { s with agenda := ts, rspValid := false, taken := s.taken ++ [s.rspData] }) ∨
      (∃ ts, ResetIsNext s ts ∧ t.phase = .unconfigured))

/-! Rules about the whole machine. -/

/-- R98: fault entry is precise. A step into FAULT writes ERR, FAULT_INFO and PHASE, and no other part of the block;
ERR is one of the nine codes, and FAULT_INFO is the accepted word, or ENC_POS for a sink error (R25). -/
def Obligations.FaultEntryIsPrecise : Prop :=
  ∀ s t : State, step s = .next t → s.phase ≠ .fault → t.phase = .fault →
    t.err ≠ .noFault ∧
    t.width = s.width ∧ t.height = s.height ∧ t.wrPtr = s.wrPtr ∧ t.frameCount = s.frameCount ∧
    t.encPos = s.encPos ∧ t.fm = s.fm ∧ t.rspValid = s.rspValid ∧ t.rspData = s.rspData ∧ t.out = s.out ∧
    ((t.err = .sinkError ∧ t.faultInfo = s.encPos.setWidth 32 ∧ t.offered = s.offered) ∨
      (t.err ≠ .sinkError ∧ s.offered = t.faultInfo :: t.offered))

/-- R16: the values of PHASE, and its only transitions, each by the step R16 names. -/
def Obligations.PhaseTransitions : Prop :=
  (Phase.unconfigured.code = 0#2 ∧ Phase.idle.code = 1#2 ∧ Phase.busy.code = 2#2 ∧ Phase.fault.code = 3#2) ∧
  ∀ s t : State, step s = .next t → t.phase ≠ s.phase →
    (s.phase = .unconfigured ∧ t.phase = .idle ∧ ∃ w h ws, s.offered = encode (.config w h) :: ws) ∨
    (s.phase = .idle ∧ t.phase = .busy ∧ ∃ ws, s.offered = encode .encode :: ws) ∨
    (s.phase = .busy ∧ t.phase = .idle ∧ (s.encPos + 1#27).toNat = 8 * (s.width.toNat * s.height.toNat)) ∨
    (s.phase ≠ .fault ∧ t.phase = .fault ∧ t.err ≠ .noFault) ∨
    (t.phase = .unconfigured ∧ ∃ ts, ResetIsNext s ts)

/-- R54, R46(a): a step leaves the offered words alone, or accepts the first of them, in a state with cmd_ready = 1. -/
def Obligations.CommandsAcceptedInOrder : Prop :=
  ∀ s t : State, step s = .next t →
    t.offered = s.offered ∨ (s.cmdReady = true ∧ ∃ w, s.offered = w :: t.offered)

/-- R97: a response-take step commutes with the emission step and with the sink error. -/
def Obligations.TakeCommutes : Prop :=
  ∀ (s : State) (ts : List Turn) (m : Move), s.rspValid = true → m = .emit ∨ m = .sinkError →
    runSteps 2 { s with agenda := .move .take :: .move m :: ts } =
      runSteps 2 { s with agenda := .move m :: .move .take :: ts }

/-- R20, R80: W and H change only at a CONFIG that is accepted in UNCONFIGURED, and at reset; so the address table,
a function of W and H, is fixed from CONFIG until reset. -/
def Obligations.DimensionsFixedForSession : Prop :=
  ∀ s t : State, step s = .next t → (t.width ≠ s.width ∨ t.height ≠ s.height) →
    (s.phase = .unconfigured ∧ t.phase = .idle ∧ ∃ ws, s.offered = encode (.config t.width t.height) :: ws) ∨
    (t.width = 0#12 ∧ t.height = 0#12 ∧
      ∃ ts, ResetIsNext s ts)

/-- R22: FRAME_COUNT counts finished frames modulo 2^32: the final emission step adds one, reset clears it, and nothing
else writes it. -/
def Obligations.FrameCountCountsFrames : Prop :=
  ∀ s t : State, step s = .next t →
    (t.frameCount = s.frameCount ∧ ¬ (s.phase = .busy ∧ t.phase = .idle)) ∨
    (s.phase = .busy ∧ t.phase = .idle ∧ (s.encPos + 1#27).toNat = 8 * (s.width.toNat * s.height.toNat) ∧
      t.frameCount = s.frameCount + 1#32) ∨
    (t.frameCount = 0#32 ∧
      ∃ ts, ResetIsNext s ts)

/-- R39, R15: apart from reset, a step leaves OUT and ENC_POS alone, or is ENCODE (ENC_POS ← 0), or is an emission
step: OUT gains one byte at its end and ENC_POS advances by exactly 1. -/
def Obligations.OutGrowsByEmissionOnly : Prop :=
  ∀ s t : State, step s = .next t →
    (t.out = s.out ∧ t.encPos = s.encPos) ∨
    (t.out = s.out ∧ s.phase = .idle ∧ t.phase = .busy ∧ t.encPos = 0#27) ∨
    (s.phase = .busy ∧ (∃ b, t.out = s.out ++ [b]) ∧ t.encPos = s.encPos + 1#27) ∨
    (t.out = [] ∧ t.pastOut = s.pastOut ++ [s.out] ∧
      ∃ ts, ResetIsNext s ts)

/-- R38, R21: only an accepted PIXEL writes the frame memory, the one element WR_PTR indexes, and then WR_PTR advances
by 1; in particular nothing writes FM while BUSY. Reset empties it. -/
def Obligations.OnlyPixelWritesFrameMemory : Prop :=
  ∀ s t : State, step s = .next t →
    (∀ i : Nat, FrameMem.read t.fm i = FrameMem.read s.fm i) ∨
    (s.phase = .idle ∧ t.wrPtr = s.wrPtr + 1#24 ∧
      ∃ (r g b : Byte) (ws : List Word), s.offered = encode (.pixel r g b) :: ws ∧
        FrameMem.read t.fm s.wrPtr.toNat = some (pixelOf r g b) ∧
        ∀ i : Nat, i ≠ s.wrPtr.toNat → FrameMem.read t.fm i = FrameMem.read s.fm i) ∨
    (t.fm = [] ∧
      ∃ ts, ResetIsNext s ts)

/-- Every step, from every state whose clauses hold, keeps them (`Inv`: R7, R19, R20, R21, R25, R29, R35, R61, R83,
R92, and the frame memory's canonical form). -/
def Obligations.StepKeepsInv : Prop := ∀ s t : State, Inv s → step s = .next t → Inv t

/-- The reset state meets `Inv`, whatever FM_CAPACITY is (R7, R34). -/
def Obligations.ResetMeetsInv : Prop := Inv State.reset ∧ ∀ cap, 1 ≤ cap → cap ≤ 2 ^ 24 - 1 → Inv (State.resetWith cap)

/-- R104: a host that breaks its duty "never gets an undefined result": from a state that meets `Inv`, the machine
always goes on, whatever word is offered and whoever moves. -/
def Obligations.MachineNeverStops : Prop := ∀ s : State, Inv s → ∃ t : State, step s = .next t

/-- R88: OUT holds whole frames but for the frame in flight, or a frame a fault cut short; every step keeps this. -/
def Obligations.StepKeepsWholeFrames : Prop :=
  ∀ s t : State, Inv s → WholeFrames s → step s = .next t → WholeFrames t

/-- The reset state has emitted no frame (R34, R88). -/
def Obligations.ResetMeetsWholeFrames : Prop := WholeFrames State.reset

/-- R87, the frame function: an ENCODE accepted with the whole frame loaded, then 8N emission steps with no fault and no
reset between them, append exactly FRAMEBYTES(FM), of length W × H × 8, and leave the block IDLE and empty. -/
def Obligations.FrameFunction : Prop :=
  ∀ (s : State) (ws : List Word) (rest : List Turn), Inv s → s.phase = .idle → s.rspValid = false →
    s.wrPtr.toNat = s.width.toNat * s.height.toNat → s.offered = 0x30000000#32 :: ws →
    s.agenda = .move .command ::
      (List.replicate (8 * (s.width.toNat * s.height.toNat)) (Turn.move .emit) ++ rest) →
    ∃ bytes : List Byte,
      frameBytes s.width.toNat s.fm (s.width.toNat * s.height.toNat) = some bytes ∧
      bytes.length = s.width.toNat * s.height.toNat * 8 ∧
      runSteps (1 + 8 * (s.width.toNat * s.height.toNat)) s =
        .next { s with
          agenda := rest
          offered := ws
          out := s.out ++ bytes
          phase := .idle
          wrPtr := 0#24
          encPos := BitVec.ofNat 27 (8 * (s.width.toNat * s.height.toNat))
          frameCount := s.frameCount + 1#32 }

/-- R38, R40: the byte a BUSY block puts on its output depends on W, H, ENC_POS and the loaded frame's own elements
alone: two blocks that agree on those emit the same byte, whatever else differs between them. -/
def Obligations.OutputDependsOnFrameOnly : Prop :=
  ∀ s s' : State, s.phase = .busy → s'.phase = .busy → s.width = s'.width → s.height = s'.height →
    s.encPos = s'.encPos →
    (∀ i, i < s.width.toNat * s.height.toNat → FrameMem.read s.fm i = FrameMem.read s'.fm i) →
    s.outData = s'.outData

/-- R72, R116: CB_LOOKUP gives the same response whatever the session, the phase, W, H or FM. -/
def Obligations.CodebookIndependentOfState : Prop :=
  ∀ (ch : BitVec 2) (val : Byte) (slot : Slot) (s s' t t' : State), ch ≠ 3#2 →
    exec (.cbLookup ch val slot) s = .next t → exec (.cbLookup ch val slot) s' = .next t' →
    t.rspValid = true ∧ t'.rspValid = true ∧ t.rspData = t'.rspData

/-- R105: the ends of a run. Faulted and complete are the rule's states; stuck is a BUSY block, or a pending response
outside FAULT, whose turns to come (the environment's future, log 19) take no move: no emission or ready sink in BUSY,
no take of the response, no sink error and no reset; and it stays stuck. A block that still has an emission to come, a
take, or a command that is enabled, has not ended. -/
def Obligations.EndOfRun : Prop :=
  (∀ s : State, endKind s = some .faulted ↔ s.phase = .fault) ∧
  (∀ s : State, endKind s = some .complete ↔
    (s.phase = .unconfigured ∨ s.phase = .idle) ∧ s.offered = [] ∧ s.rspValid = false) ∧
  (∀ s : State, endKind s = some .stuck ↔
    (s.phase = .busy ∨ ((s.phase = .unconfigured ∨ s.phase = .idle) ∧ s.rspValid = true)) ∧ NothingComes s) ∧
  (∀ s : State, NothingComes s → s.phase ≠ .fault →
    (s.phase = .busy → Turn.move .emit ∉ s.agenda ∧
      ∀ c : Machine.Cycle, Turn.cycle c ∈ s.agenda → c.sinkReady = false) ∧
    (s.rspValid = true → Turn.move .take ∉ s.agenda) ∧
    Turn.move .sinkError ∉ s.agenda ∧ Turn.move .reset ∉ s.agenda ∧
    ∀ c : Machine.Cycle, Turn.cycle c ∈ s.agenda → c.sinkError = false ∧ c.reset = false) ∧
  (∀ s : State, s.phase = .busy → Turn.move .emit ∈ s.agenda → endKind s = none) ∧
  (∀ s : State, s.rspValid = true → s.phase ≠ .fault → Turn.move .take ∈ s.agenda → endKind s = none) ∧
  (∀ s : State, enabled .command s = true → endKind s = none) ∧
  (∀ s : State, endKind s = some .stuck →
    ∃ ts : List Turn, step s = .next { s with agenda := ts } ∧ endKind { s with agenda := ts } = some .stuck) ∧
  (∀ s : State, endKind s = some .complete →
    enabled .command s = false ∧ enabled .take s = false ∧ enabled .emit s = false) ∧
  (∀ s : State, endKind s = some .faulted →
    enabled .command s = false ∧ enabled .emit s = false ∧ enabled .sinkError s = false)

/-! The codebook (40_codebook.md). -/

/-- R64: the packed word holds G in bits 23:16, R in 15:8, B in 7:0, and is the OR of the shifted channels. -/
def Obligations.PackedWordOrder : Prop :=
  ∀ r g b : Byte,
    (pack r g b).extractLsb 23 16 = g ∧ (pack r g b).extractLsb 15 8 = r ∧ (pack r g b).extractLsb 7 0 = b ∧
    pack r g b = (g.setWidth 24 <<< 16) ||| (r.setWidth 24 <<< 8) ||| b.setWidth 24

/-- R66, R67, R61: the bits of a slot's group; SYM's closed form; and the symbol byte of slot `s` of a packed word, bit
by bit: bits 7, 5 and 2 are 0, bits 4 and 1 are 1, and bits 6, 3 and 0 are the negations of `w[23 − 3s]`, `w[22 − 3s]`
and `w[21 − 3s]`. -/
def Obligations.SymbolByteBits : Prop :=
  (∀ g : Group, sym g = 0x12#8 ||| notBit g 0 ||| (notBit g 1 <<< 3) ||| (notBit g 2 <<< 6)) ∧
  ∀ (w : Packed) (s : Slot),
    (group w s).getLsbD 2 = w.getLsbD (23 - 3 * s.toNat) ∧
    (group w s).getLsbD 1 = w.getLsbD (22 - 3 * s.toNat) ∧
    (group w s).getLsbD 0 = w.getLsbD (21 - 3 * s.toNat) ∧
    (sym (group w s)).getLsbD 7 = false ∧
    (sym (group w s)).getLsbD 6 = !w.getLsbD (23 - 3 * s.toNat) ∧
    (sym (group w s)).getLsbD 5 = false ∧
    (sym (group w s)).getLsbD 4 = true ∧
    (sym (group w s)).getLsbD 3 = !w.getLsbD (22 - 3 * s.toNat) ∧
    (sym (group w s)).getLsbD 2 = false ∧
    (sym (group w s)).getLsbD 1 = true ∧
    (sym (group w s)).getLsbD 0 = !w.getLsbD (21 - 3 * s.toNat)

/-- R68, R70, R52: the eight bytes of a pixel determine it, and so do the seven bits of each that a 7-data-bit link
carries; R70's inverse gives each group back. -/
def Obligations.PixelBytesDetermineWord : Prop :=
  (∀ w w' : Packed, encodePacked w = encodePacked w' → w = w') ∧
  (∀ w w' : Packed, (encodePacked w).map linkPayload = (encodePacked w').map linkPayload → w = w') ∧
  (∀ (w : Packed) (s : Slot), unsym (sym (group w s)) = group w s) ∧
  (∀ w : Packed, (encodePacked w).length = 8)

/-- R52, R122, R41(e), with the spec's own general-knowledge reading of a UART frame (log 18): the nine cells of a
symbol byte, and through an inverting stage the three LED bits; and over either polarity two streams of symbol bytes
with the same line are the same stream, so 7-bit framing loses nothing. -/
def Obligations.LinkLosesNothing : Prop :=
  (∀ g : Group,
    lineLevels .direct (sym g) =
      [false, !g.getLsbD 0, true, false, !g.getLsbD 1, true, false, !g.getLsbD 2, true] ∧
    lineLevels .inverted (sym g) = [true, g.getLsbD 0, false, true, g.getLsbD 1, false, true, g.getLsbD 2, false]) ∧
  (∀ (p : LinePolarity) (out out' : List Byte), (∀ b ∈ out, b ∈ symbolBytes) → (∀ b ∈ out', b ∈ symbolBytes) →
    lineOf p out = lineOf p out' → out = out') ∧
  (∀ (p : LinePolarity) (out : List Byte), (lineOf p out).length = 9 * out.length)

/-- R73: which bits of a channel value each slot of its codebook entry carries; the other slots are 0x5B. -/
def Obligations.ChannelSlotOccupancy : Prop :=
  ∀ v : Byte,
    codebook .green v 0#3 = sym (v.extractLsb 7 5) ∧
    codebook .green v 1#3 = sym (v.extractLsb 4 2) ∧
    codebook .green v 2#3 = sym ((v.extractLsb 1 0).setWidth 3 <<< 1) ∧
    codebook .red v 2#3 = sym ((v.extractLsb 7 7).setWidth 3) ∧
    codebook .red v 3#3 = sym (v.extractLsb 6 4) ∧
    codebook .red v 4#3 = sym (v.extractLsb 3 1) ∧
    codebook .red v 5#3 = sym ((v.extractLsb 0 0).setWidth 3 <<< 2) ∧
    codebook .blue v 5#3 = sym ((v.extractLsb 7 6).setWidth 3) ∧
    codebook .blue v 6#3 = sym (v.extractLsb 5 3) ∧
    codebook .blue v 7#3 = sym (v.extractLsb 2 0) ∧
    (∀ s : Slot, 3 ≤ s.toNat → codebook .green v s = 0x5B#8) ∧
    (∀ s : Slot, s.toNat < 2 ∨ 5 < s.toNat → codebook .red v s = 0x5B#8) ∧
    (∀ s : Slot, s.toNat < 5 → codebook .blue v s = 0x5B#8)

/-- R74: the combination invariant, for all 2^24 pixels and all slots. -/
def Obligations.CombinationInvariant : Prop :=
  ∀ (r g b : Byte) (s : Slot),
    sym (group (pack r g b) s) = codebook .red r s &&& codebook .green g s &&& codebook .blue b s

/-! The address map (41_address_map.md). -/

/-- R79: AMAP is a bijection onto the grid with the stated inverse, RIDX a self-inverse permutation; rows alternate in
direction; and the degenerate cases. -/
def Obligations.SerpentineMap : Prop :=
  (∀ w h p : Nat, p < w * h → (amap w p).1 < w ∧ (amap w p).2 < h ∧ amapInverse w (amap w p) = p) ∧
  (∀ w h x y : Nat, x < w → y < h → amapInverse w (x, y) < w * h ∧ amap w (amapInverse w (x, y)) = (x, y)) ∧
  (∀ w h p : Nat, p < w * h → ridx w p < w * h ∧ ridx w (ridx w p) = p) ∧
  (∀ w y i : Nat, i < w → y % 2 = 0 → amap w (y * w + i) = (i, y)) ∧
  (∀ w y i : Nat, i < w → y % 2 = 1 → amap w (y * w + i) = (w - 1 - i, y)) ∧
  (∀ p : Nat, amap 1 p = (0, p) ∧ ridx 1 p = p) ∧
  (∀ w p : Nat, p < w * 1 → ridx w p = p) ∧
  (∀ w h : Nat, 2 ≤ w → 2 ≤ h → ∃ p, p < w * h ∧ ridx w p ≠ p)

/-- R78: RIDX in closed form. -/
def Obligations.RasterIndexClosedForm : Prop :=
  ∀ w h p : Nat, p < w * h →
    ridx w p = (amap w p).2 * w + (amap w p).1 ∧
    ((p / w) % 2 = 0 → ridx w p = p) ∧
    ((p / w) % 2 = 1 → ridx w p = (p / w) * w + (w - 1 - p % w))

/-! The host's side of the boundary. -/

/-- R90: for every allowed scale and rounding of the reals, Q(0) = 0, Q(1) = 255, and real inputs below 0 and above 1
clamp to those; NaN is refused (R89) and the infinities clamp (V11; log 11). -/
def Obligations.QuantizerClamps : Prop :=
  ∀ (scale : QuantScale) (round : ℝ → Int), LegalRound round →
    quantize scale round (.finite 0) = some 0#8 ∧
    quantize scale round (.finite 1) = some 255#8 ∧
    (∀ c : ℝ, c ≤ 0 → quantize scale round (.finite c) = quantize scale round (.finite 0)) ∧
    (∀ c : ℝ, 1 ≤ c → quantize scale round (.finite c) = quantize scale round (.finite 1)) ∧
    quantize scale round .negInf = some 0#8 ∧ quantize scale round .posInf = some 255#8 ∧
    quantize scale round .nan = none

/-- R107 to R109: the pacer pulls and ships every item in order, none dropped; it stops when the source is exhausted;
no frame ships before its accumulated deadline, the start plus the delays before it; with no waits, no cost and exact
sleeps each ships exactly then; and after an overrun the next frame is asked for at once. Times and draws are log 12's. -/
def Obligations.PacerDeadlines : Prop :=
  (∀ (source : ContentSource) (passes start : Nat) (s : State),
    (pacerRun source passes start s).ended = .running → (pacerRun source passes start s).starts.length = passes) ∧
  (∀ (source : ContentSource) (passes start : Nat) (s : State),
    (pacerRun source passes start s).ended = .exhausted →
    source (pacerRun source passes start s).starts.length = none ∧
    ∀ k : Nat, k < (pacerRun source passes start s).starts.length → source k ≠ none) ∧
  (∀ (source : ContentSource) (passes start : Nat) (s : State) (k t : Nat),
    (pacerRun source passes start s).starts[k]? = some t → start + delaysBefore source k ≤ t) ∧
  (∀ (source : ContentSource) (passes start : Nat) (s : State),
    (∀ (k : Nat) (item : PacedFrame), source k = some item → item.wait = 0 ∧ item.cost = 0 ∧ item.overSleep = 0) →
    ∀ k t : Nat, (pacerRun source passes start s).starts[k]? = some t → t = start + delaysBefore source k) ∧
  (∀ (p : Pacer) (item : PacedFrame), item.overSleep = 0 → p.nextDeadline + item.delay ≤ frameStart item p + item.cost →
    (pacerNext item p).now = frameStart item p + item.cost)

/-- R62, R63: the assembler refuses a value that does not fit and never truncates: each command it emits carries the
numbers as written; and each pseudo-command expands to the commands R63 gives, N of them PIXELs. -/
def Obligations.AssemblerExpandsExactly : Prop :=
  (∀ (n : Option Nat) (w h : Nat) (rest : List Source) (acts : List Action),
    assembleFrom n (.config w h :: rest) = some acts →
    ∃ (w' h' : BitVec 12) (more : List Action), w'.toNat = w ∧ h'.toNat = h ∧
      acts = .command (.config w' h') :: more ∧ assembleFrom (some (w * h)) rest = some more) ∧
  (∀ (n : Option Nat) (w h : Nat) (rest : List Source), (4096 ≤ w ∨ 4096 ≤ h) →
    assembleFrom n (.config w h :: rest) = none) ∧
  (∀ (n : Option Nat) (r g b : Nat) (rest : List Source) (acts : List Action),
    assembleFrom n (.pixel r g b :: rest) = some acts →
    ∃ (r' g' b' : Byte) (more : List Action), r'.toNat = r ∧ g'.toNat = g ∧ b'.toNat = b ∧
      acts = .command (.pixel r' g' b') :: more ∧ assembleFrom n rest = some more) ∧
  (∀ (n : Option Nat) (ch val slot : Nat) (rest : List Source) (acts : List Action),
    assembleFrom n (.cbLookup ch val slot :: rest) = some acts →
    ∃ (ch' : BitVec 2) (val' : Byte) (slot' : Slot) (more : List Action), ch'.toNat = ch ∧ val'.toNat = val ∧
      slot'.toNat = slot ∧ acts = .command (.cbLookup ch' val' slot') :: more ∧ assembleFrom n rest = some more) ∧
  (∀ (n : Option Nat) (p : Nat) (rest : List Source) (acts : List Action),
    assembleFrom n (.mapLookup p :: rest) = some acts →
    ∃ (p' : BitVec 24) (more : List Action), p'.toNat = p ∧
      acts = .command (.mapLookup p') :: more ∧ assembleFrom n rest = some more) ∧
  (∀ (r g b : Nat) (rest : List Source), assembleFrom none (.fill r g b :: rest) = none ∧
    assembleFrom none (.showFrame r g b :: rest) = none) ∧
  (∀ (n r g b : Nat) (rest : List Source), r < 256 → g < 256 → b < 256 →
    assembleFrom (some n) (.fill r g b :: rest) =
      assembleFrom (some n) (List.replicate n (.pixel r g b) ++ rest) ∧
    assembleFrom (some n) (.showFrame r g b :: rest) =
      assembleFrom (some n) (.fill r g b :: .encode :: rest)) ∧
  (∀ (n : Option Nat) (pixels : List (Nat × Nat × Nat)) (rest : List Source), n = some pixels.length →
    assembleFrom n (.frame pixels :: rest) =
      assembleFrom n (pixels.map (fun px => .pixel px.1 px.2.1 px.2.2) ++ .encode :: rest)) ∧
  (∀ (n : Option Nat) (pixels : List (Nat × Nat × Nat)) (rest : List Source), n ≠ some pixels.length →
    assembleFrom n (.frame pixels :: rest) = none)

/-- R107, R104, I1: what the pacer's PIXELs, ENCODE and wait for `busy = 0` do with an IDLE block that meets `Inv`, when
the host and the sink take just the turns needed: a frame of N pixels is loaded in order and all its 8N bytes leave; a
frame with too few or too many pixels ends the loop in FAULT, before any byte of it. -/
def Obligations.PacedFrameTransmitted : Prop :=
  (∀ (s : State) (pixels : List Pixel), Inv s → s.phase = .idle → s.rspValid = false → s.wrPtr = 0#24 →
    s.offered = [] → pixels.length = s.width.toNat * s.height.toNat →
    ∃ (t : State) (bytes : List Byte),
      transmit (List.replicate (pixels.length + 1) (Turn.move .command) ++
        List.replicate (8 * pixels.length) (Turn.move .emit)) (offerFrame pixels s) = .done t ∧
      (∀ i : Nat, i < pixels.length → FrameMem.read t.fm i = pixels[i]?) ∧
      frameBytes s.width.toNat t.fm pixels.length = some bytes ∧
      t.out = s.out ++ bytes ∧ bytes.length = 8 * pixels.length ∧
      t.phase = .idle ∧ t.wrPtr = 0#24 ∧ t.frameCount = s.frameCount + 1#32 ∧ t.offered = []) ∧
  (∀ (s : State) (pixels : List Pixel), Inv s → s.phase = .idle → s.rspValid = false → s.wrPtr = 0#24 →
    s.offered = [] → pixels.length < s.width.toNat * s.height.toNat →
    ∃ t : State, transmit (List.replicate (pixels.length + 1) (Turn.move .command)) (offerFrame pixels s) = .fatal t ∧
      t.err = .frameUnderflow ∧ t.out = s.out) ∧
  (∀ (s : State) (pixels : List Pixel), Inv s → s.phase = .idle → s.rspValid = false → s.wrPtr = 0#24 →
    s.offered = [] → s.width.toNat * s.height.toNat < pixels.length →
    ∃ t : State, transmit (List.replicate (pixels.length + 1) (Turn.move .command)) (offerFrame pixels s) = .fatal t ∧
      t.err = .frameOverflow ∧ t.out = s.out)
end

