-- ==== Sys2Proof/Laws/AddressMap.lean ====
section
/-! SUPPORT. The serpentine map on the grid: range, inverse, and the two row directions. -/

namespace Sys2Proof.Machine

/-- The row of a physical index is inside the grid. -/
theorem row_lt {w h p : Nat} (hp : p < w * h) : p / w < h := Nat.div_lt_of_lt_mul hp

/-- A grid of some pixel has a column. -/
theorem width_pos {w h p : Nat} (hp : p < w * h) : 0 < w := Nat.pos_of_ne_zero fun e => by simp [e] at hp

/-- R77 on the physical index `y × W + i` of an even row. -/
theorem amap_even_row {w y i : Nat} (hi : i < w) (hy : y % 2 = 0) : amap w (y * w + i) = (i, y) := by
  have hw : 0 < w := by omega
  have hd : (y * w + i) / w = y := by rw [Nat.mul_comm, Nat.mul_add_div hw, Nat.div_eq_of_lt hi, Nat.add_zero]
  have hm : (y * w + i) % w = i := by rw [Nat.mul_comm, Nat.mul_add_mod, Nat.mod_eq_of_lt hi]
  simp [amap, hd, hm, hy]

/-- R77 on the physical index `y × W + i` of an odd row. -/
theorem amap_odd_row {w y i : Nat} (hi : i < w) (hy : y % 2 = 1) : amap w (y * w + i) = (w - 1 - i, y) := by
  have hw : 0 < w := by omega
  have hd : (y * w + i) / w = y := by rw [Nat.mul_comm, Nat.mul_add_div hw, Nat.div_eq_of_lt hi, Nat.add_zero]
  have hm : (y * w + i) % w = i := by rw [Nat.mul_comm, Nat.mul_add_mod, Nat.mod_eq_of_lt hi]
  simp [amap, hd, hm, hy]

/-- The coordinates stay inside the grid (R79(b)). -/
theorem amap_inside {w h p : Nat} (hp : p < w * h) : (amap w p).1 < w ∧ (amap w p).2 < h := by
  have hw := width_pos hp
  have hm := Nat.mod_lt p hw
  have hr := row_lt hp
  unfold amap
  split
  · exact ⟨hm, hr⟩
  · exact ⟨by simp only; omega, hr⟩

end Sys2Proof.Machine
end

