-- ==== Sys2Proof/Laws/Codebook.lean ====
section
/-! SUPPORT. The symbol function, bit by bit, and what packing and grouping do to bits. -/

namespace Sys2Proof.Machine

/-- A stored element is its three channels. -/
theorem pixelOf_channels (r g b : Byte) :
    redOf (pixelOf r g b) = r ∧ greenOf (pixelOf r g b) = g ∧ blueOf (pixelOf r g b) = b := by
  refine ⟨?_, ?_, ?_⟩ <;> refine BitVec.eq_of_getElem_eq fun i hi => ?_
  · simp only [redOf, pixelOf, BitVec.getElem_extractLsb', BitVec.getLsbD_append]
    interval_cases i <;> simp
  · simp only [greenOf, pixelOf, BitVec.getElem_extractLsb', BitVec.getLsbD_append]
    interval_cases i <;> simp
  · simp only [blueOf, pixelOf, BitVec.getElem_extractLsb', BitVec.getLsbD_append]
    interval_cases i <;> simp

/-- An element is what its channels make. -/
theorem pixelOf_eta (px : Pixel) : pixelOf (redOf px) (greenOf px) (blueOf px) = px := by
  refine BitVec.eq_of_getLsbD_eq fun k hk => ?_
  simp only [pixelOf, redOf, greenOf, blueOf, BitVec.getLsbD_append, BitVec.getLsbD_extractLsb']
  interval_cases k <;> simp

/-- Bit `k` of a slot's group (R65, R66). -/
theorem group_getLsbD (w : Packed) (s : Slot) (k : Nat) (hk : k < 3) :
    (group w s).getLsbD k = w.getLsbD (21 - 3 * s.toNat + k) := by
  simp [group, hk]

/-- Grouping distributes over OR (R74's proof). -/
theorem group_or (w w' : Packed) (s : Slot) : group (w ||| w') s = group w s ||| group w' s := by
  refine BitVec.eq_of_getLsbD_eq fun k hk => ?_
  simp only [BitVec.getLsbD_or, group_getLsbD _ _ _ hk]

/-- The packed word's channels, from the most significant byte down (R64). -/
theorem pack_eq_append (r g b : Byte) : pack r g b = g ++ r ++ b := by
  refine BitVec.eq_of_getLsbD_eq fun i hi => ?_
  simp only [pack, BitVec.getLsbD_or, BitVec.getLsbD_shiftLeft, BitVec.getLsbD_append, BitVec.getLsbD_setWidth]
  interval_cases i <;> simp

/-- A packed word is the OR of its three single-channel words (R74's proof). -/
theorem pack_eq_or_single (r g b : Byte) :
    pack r g b = single .red r ||| single .green g ||| single .blue b := by
  have hz : BitVec.setWidth 24 (0#8) = 0#24 := rfl
  simp only [single, pack, hz, BitVec.zero_shiftLeft, BitVec.or_zero, BitVec.zero_or]
  rw [BitVec.or_comm (BitVec.setWidth 24 g <<< 16)]

/-- `unsym` undoes `sym` (R70). -/
theorem unsym_sym (g : Group) : unsym (sym g) = g := by
  revert g; decide

/-- De Morgan over the symbol bytes (R70). -/
theorem sym_or (g g' : Group) : sym (g ||| g') = sym g &&& sym g' := by
  revert g g'; decide

end Sys2Proof.Machine
end

