-- ==== Sys2Proof/Laws/Memory.lean ====
section
/-! SUPPORT. The frame memory: read after write, frame of a write, and the canonical form kept by every operation. -/

namespace Sys2Proof.Machine

@[simp] theorem FrameMem.read_nil (i : Nat) : FrameMem.read [] i = none := rfl

@[simp] theorem FrameMem.read_cons (j i : Nat) (v : Pixel) (m : FrameMem) :
    FrameMem.read ((j, v) :: m) i = if i = j then some v else FrameMem.read m i := rfl

/-- All that a write does, seen through a read. -/
theorem FrameMem.read_write (m : FrameMem) (i a : Nat) (v : Pixel) :
    FrameMem.read (FrameMem.write m i v) a = if a = i then some v else FrameMem.read m a := by
  induction m with
  | nil => simp [FrameMem.write]
  | cons hd tl ih =>
    obtain ⟨j, u⟩ := hd
    simp only [FrameMem.write]
    split
    · simp
    · split
      · rename_i _ hij
        subst hij
        by_cases h : a = i <;> simp [h]
      · by_cases h : a = j <;> by_cases h' : a = i <;> simp_all

@[simp] theorem FrameMem.read_write_same (m : FrameMem) (i : Nat) (v : Pixel) :
    FrameMem.read (FrameMem.write m i v) i = some v := by simp [FrameMem.read_write]

theorem FrameMem.read_write_other (m : FrameMem) {i a : Nat} (v : Pixel) (h : a ≠ i) :
    FrameMem.read (FrameMem.write m i v) a = FrameMem.read m a := by simp [FrameMem.read_write, h]

theorem FrameMem.risesFrom_write (m : FrameMem) (lo i : Nat) (v : Pixel) (h : FrameMem.risesFrom lo m = true)
    (hlo : lo ≤ i) : FrameMem.risesFrom lo (FrameMem.write m i v) = true := by
  induction m generalizing lo with
  | nil => simpa [FrameMem.write, FrameMem.risesFrom] using hlo
  | cons hd tl ih =>
    obtain ⟨j, u⟩ := hd
    simp only [FrameMem.risesFrom, Bool.and_eq_true, decide_eq_true_eq] at h
    simp only [FrameMem.write]
    split
    · rename_i hij
      simp only [FrameMem.risesFrom, Bool.and_eq_true, decide_eq_true_eq]
      exact ⟨hlo, by omega, h.2⟩
    · split
      · rename_i _ hij
        subst hij
        simp only [FrameMem.risesFrom, Bool.and_eq_true, decide_eq_true_eq]
        exact ⟨hlo, h.2⟩
      · simp only [FrameMem.risesFrom, Bool.and_eq_true, decide_eq_true_eq]
        exact ⟨h.1, ih (j + 1) h.2 (by omega)⟩

/-- A write keeps the canonical form. -/
theorem FrameMem.wf_write (m : FrameMem) (i : Nat) (v : Pixel) (h : FrameMem.wf m = true) :
    FrameMem.wf (FrameMem.write m i v) = true := FrameMem.risesFrom_write m 0 i v h (Nat.zero_le i)

theorem FrameMem.read_below (m : FrameMem) (lo i : Nat) (h : FrameMem.risesFrom lo m = true) (hi : i < lo) :
    FrameMem.read m i = none := by
  induction m generalizing lo with
  | nil => rfl
  | cons hd tl ih =>
    obtain ⟨j, u⟩ := hd
    simp only [FrameMem.risesFrom, Bool.and_eq_true, decide_eq_true_eq] at h
    rw [FrameMem.read_cons, if_neg (by omega)]
    exact ih (j + 1) h.2 (by omega)

theorem FrameMem.eq_of_read (m m' : FrameMem) (lo : Nat) (h : FrameMem.risesFrom lo m = true)
    (h' : FrameMem.risesFrom lo m' = true) (hr : ∀ i, FrameMem.read m i = FrameMem.read m' i) : m = m' := by
  induction m generalizing m' lo with
  | nil =>
    cases m' with
    | nil => rfl
    | cons hd tl => obtain ⟨j, u⟩ := hd; have := hr j; simp at this
  | cons hd tl ih =>
    obtain ⟨j, u⟩ := hd
    cases m' with
    | nil => have := hr j; simp at this
    | cons hd' tl' =>
      obtain ⟨j', u'⟩ := hd'
      simp only [FrameMem.risesFrom, Bool.and_eq_true, decide_eq_true_eq] at h h'
      have hj : j = j' := by
        rcases Nat.lt_trichotomy j j' with hlt | heq | hgt
        · have := hr j
          rw [FrameMem.read_cons, if_pos rfl, FrameMem.read_cons, if_neg (by omega),
            FrameMem.read_below tl' (j' + 1) j h'.2 (by omega)] at this
          cases this
        · exact heq
        · have := hr j'
          rw [FrameMem.read_cons, if_neg (by omega), FrameMem.read_cons, if_pos rfl,
            FrameMem.read_below tl (j + 1) j' h.2 (by omega)] at this
          cases this
      subst hj
      have hu : u = u' := by simpa using hr j
      subst hu
      rw [ih tl' (j + 1) h.2 h'.2 fun i => ?_]
      by_cases hi : i = j
      · subst hi
        rw [FrameMem.read_below tl _ i h.2 (by omega), FrameMem.read_below tl' _ i h'.2 (by omega)]
      · simpa [hi] using hr i

/-- Canonical frame memories that read alike are the same list. -/
theorem FrameMem.ext_of_wf (m m' : FrameMem) (h : FrameMem.wf m = true) (h' : FrameMem.wf m' = true)
    (hr : ∀ i, FrameMem.read m i = FrameMem.read m' i) : m = m' := FrameMem.eq_of_read m m' 0 h h' hr

/-- The reset machine's frame memory is canonical. -/
theorem FrameMem.wf_reset : FrameMem.wf State.reset.fm = true := rfl

end Sys2Proof.Machine
end

