-- ==== Sys2Proof/Laws/State.lean ====
section
/-! SUPPORT. What each register update of Machine/Ops.lean does to each field of the state: one lemma per field per
update. -/

namespace Sys2Proof.Machine

/-! The sizes of the frame do not depend on the environment's fields. -/

@[simp] theorem pixelCount_agenda (s : State) (ts : List Turn) : ({ s with agenda := ts } : State).pixelCount = s.pixelCount := rfl
@[simp] theorem frameSize_agenda (s : State) (ts : List Turn) : ({ s with agenda := ts } : State).frameSize = s.frameSize := rfl
@[simp] theorem pixelCount_offered (s : State) (ts : List Turn) (ws : List Word) :
    ({ s with agenda := ts, offered := ws } : State).pixelCount = s.pixelCount := rfl
@[simp] theorem frameSize_offered (s : State) (ts : List Turn) (ws : List Word) :
    ({ s with agenda := ts, offered := ws } : State).frameSize = s.frameSize := rfl

section raiseFault
variable (code : Err) (info : Word) (s : State)

@[simp] theorem raiseFault_phase : (raiseFault code info s).phase = .fault := rfl
@[simp] theorem raiseFault_err : (raiseFault code info s).err = code := rfl
@[simp] theorem raiseFault_width : (raiseFault code info s).width = s.width := rfl
@[simp] theorem raiseFault_height : (raiseFault code info s).height = s.height := rfl
@[simp] theorem raiseFault_wrPtr : (raiseFault code info s).wrPtr = s.wrPtr := rfl
@[simp] theorem raiseFault_frameCount : (raiseFault code info s).frameCount = s.frameCount := rfl
@[simp] theorem raiseFault_encPos : (raiseFault code info s).encPos = s.encPos := rfl
@[simp] theorem raiseFault_faultInfo : (raiseFault code info s).faultInfo = info := rfl
@[simp] theorem raiseFault_rspValid : (raiseFault code info s).rspValid = s.rspValid := rfl
@[simp] theorem raiseFault_rspData : (raiseFault code info s).rspData = s.rspData := rfl
@[simp] theorem raiseFault_fm : (raiseFault code info s).fm = s.fm := rfl
@[simp] theorem raiseFault_out : (raiseFault code info s).out = s.out := rfl
@[simp] theorem raiseFault_fmCapacity : (raiseFault code info s).fmCapacity = s.fmCapacity := rfl
@[simp] theorem raiseFault_offered : (raiseFault code info s).offered = s.offered := rfl
@[simp] theorem raiseFault_agenda : (raiseFault code info s).agenda = s.agenda := rfl
@[simp] theorem raiseFault_taken : (raiseFault code info s).taken = s.taken := rfl
@[simp] theorem raiseFault_pastOut : (raiseFault code info s).pastOut = s.pastOut := rfl
@[simp] theorem raiseFault_pixelCount : (raiseFault code info s).pixelCount = s.pixelCount := rfl
@[simp] theorem raiseFault_frameSize : (raiseFault code info s).frameSize = s.frameSize := rfl
end raiseFault

section rejectIllegal
variable (word : Word) (s : State)

@[simp] theorem rejectIllegal_phase : (rejectIllegal word s).phase = .fault := rfl
@[simp] theorem rejectIllegal_err : (rejectIllegal word s).err = .illegalCmd := rfl
@[simp] theorem rejectIllegal_width : (rejectIllegal word s).width = s.width := rfl
@[simp] theorem rejectIllegal_height : (rejectIllegal word s).height = s.height := rfl
@[simp] theorem rejectIllegal_wrPtr : (rejectIllegal word s).wrPtr = s.wrPtr := rfl
@[simp] theorem rejectIllegal_frameCount : (rejectIllegal word s).frameCount = s.frameCount := rfl
@[simp] theorem rejectIllegal_encPos : (rejectIllegal word s).encPos = s.encPos := rfl
@[simp] theorem rejectIllegal_faultInfo : (rejectIllegal word s).faultInfo = word := rfl
@[simp] theorem rejectIllegal_rspValid : (rejectIllegal word s).rspValid = s.rspValid := rfl
@[simp] theorem rejectIllegal_rspData : (rejectIllegal word s).rspData = s.rspData := rfl
@[simp] theorem rejectIllegal_fm : (rejectIllegal word s).fm = s.fm := rfl
@[simp] theorem rejectIllegal_out : (rejectIllegal word s).out = s.out := rfl
@[simp] theorem rejectIllegal_fmCapacity : (rejectIllegal word s).fmCapacity = s.fmCapacity := rfl
@[simp] theorem rejectIllegal_offered : (rejectIllegal word s).offered = s.offered := rfl
@[simp] theorem rejectIllegal_agenda : (rejectIllegal word s).agenda = s.agenda := rfl
@[simp] theorem rejectIllegal_taken : (rejectIllegal word s).taken = s.taken := rfl
@[simp] theorem rejectIllegal_pastOut : (rejectIllegal word s).pastOut = s.pastOut := rfl
@[simp] theorem rejectIllegal_pixelCount : (rejectIllegal word s).pixelCount = s.pixelCount := rfl
@[simp] theorem rejectIllegal_frameSize : (rejectIllegal word s).frameSize = s.frameSize := rfl
end rejectIllegal

section faultCommand
variable (code : Err) (i : Instr) (s : State)

@[simp] theorem faultCommand_phase : (faultCommand code i s).phase = .fault := rfl
@[simp] theorem faultCommand_err : (faultCommand code i s).err = code := rfl
@[simp] theorem faultCommand_width : (faultCommand code i s).width = s.width := rfl
@[simp] theorem faultCommand_height : (faultCommand code i s).height = s.height := rfl
@[simp] theorem faultCommand_wrPtr : (faultCommand code i s).wrPtr = s.wrPtr := rfl
@[simp] theorem faultCommand_frameCount : (faultCommand code i s).frameCount = s.frameCount := rfl
@[simp] theorem faultCommand_encPos : (faultCommand code i s).encPos = s.encPos := rfl
@[simp] theorem faultCommand_faultInfo : (faultCommand code i s).faultInfo = encode i := rfl
@[simp] theorem faultCommand_rspValid : (faultCommand code i s).rspValid = s.rspValid := rfl
@[simp] theorem faultCommand_rspData : (faultCommand code i s).rspData = s.rspData := rfl
@[simp] theorem faultCommand_fm : (faultCommand code i s).fm = s.fm := rfl
@[simp] theorem faultCommand_out : (faultCommand code i s).out = s.out := rfl
@[simp] theorem faultCommand_fmCapacity : (faultCommand code i s).fmCapacity = s.fmCapacity := rfl
@[simp] theorem faultCommand_offered : (faultCommand code i s).offered = s.offered := rfl
@[simp] theorem faultCommand_agenda : (faultCommand code i s).agenda = s.agenda := rfl
@[simp] theorem faultCommand_taken : (faultCommand code i s).taken = s.taken := rfl
@[simp] theorem faultCommand_pastOut : (faultCommand code i s).pastOut = s.pastOut := rfl
@[simp] theorem faultCommand_pixelCount : (faultCommand code i s).pixelCount = s.pixelCount := rfl
@[simp] theorem faultCommand_frameSize : (faultCommand code i s).frameSize = s.frameSize := rfl
end faultCommand

section bindDimensions
variable (w h : BitVec 12) (s : State)

@[simp] theorem bindDimensions_phase : (bindDimensions w h s).phase = .idle := rfl
@[simp] theorem bindDimensions_err : (bindDimensions w h s).err = s.err := rfl
@[simp] theorem bindDimensions_width : (bindDimensions w h s).width = w := rfl
@[simp] theorem bindDimensions_height : (bindDimensions w h s).height = h := rfl
@[simp] theorem bindDimensions_wrPtr : (bindDimensions w h s).wrPtr = 0#24 := rfl
@[simp] theorem bindDimensions_frameCount : (bindDimensions w h s).frameCount = s.frameCount := rfl
@[simp] theorem bindDimensions_encPos : (bindDimensions w h s).encPos = s.encPos := rfl
@[simp] theorem bindDimensions_faultInfo : (bindDimensions w h s).faultInfo = s.faultInfo := rfl
@[simp] theorem bindDimensions_rspValid : (bindDimensions w h s).rspValid = s.rspValid := rfl
@[simp] theorem bindDimensions_rspData : (bindDimensions w h s).rspData = s.rspData := rfl
@[simp] theorem bindDimensions_fm : (bindDimensions w h s).fm = s.fm := rfl
@[simp] theorem bindDimensions_out : (bindDimensions w h s).out = s.out := rfl
@[simp] theorem bindDimensions_fmCapacity : (bindDimensions w h s).fmCapacity = s.fmCapacity := rfl
@[simp] theorem bindDimensions_offered : (bindDimensions w h s).offered = s.offered := rfl
@[simp] theorem bindDimensions_agenda : (bindDimensions w h s).agenda = s.agenda := rfl
@[simp] theorem bindDimensions_taken : (bindDimensions w h s).taken = s.taken := rfl
@[simp] theorem bindDimensions_pastOut : (bindDimensions w h s).pastOut = s.pastOut := rfl
@[simp] theorem bindDimensions_pixelCount : (bindDimensions w h s).pixelCount = w.toNat * h.toNat := rfl
end bindDimensions

section storePixel
variable (px : Pixel) (s : State)

@[simp] theorem storePixel_phase : (storePixel px s).phase = s.phase := rfl
@[simp] theorem storePixel_err : (storePixel px s).err = s.err := rfl
@[simp] theorem storePixel_width : (storePixel px s).width = s.width := rfl
@[simp] theorem storePixel_height : (storePixel px s).height = s.height := rfl
@[simp] theorem storePixel_wrPtr : (storePixel px s).wrPtr = s.wrPtr + 1#24 := rfl
@[simp] theorem storePixel_frameCount : (storePixel px s).frameCount = s.frameCount := rfl
@[simp] theorem storePixel_encPos : (storePixel px s).encPos = s.encPos := rfl
@[simp] theorem storePixel_faultInfo : (storePixel px s).faultInfo = s.faultInfo := rfl
@[simp] theorem storePixel_rspValid : (storePixel px s).rspValid = s.rspValid := rfl
@[simp] theorem storePixel_rspData : (storePixel px s).rspData = s.rspData := rfl
@[simp] theorem storePixel_fm : (storePixel px s).fm = FrameMem.write s.fm s.wrPtr.toNat px := rfl
@[simp] theorem storePixel_out : (storePixel px s).out = s.out := rfl
@[simp] theorem storePixel_fmCapacity : (storePixel px s).fmCapacity = s.fmCapacity := rfl
@[simp] theorem storePixel_offered : (storePixel px s).offered = s.offered := rfl
@[simp] theorem storePixel_agenda : (storePixel px s).agenda = s.agenda := rfl
@[simp] theorem storePixel_taken : (storePixel px s).taken = s.taken := rfl
@[simp] theorem storePixel_pastOut : (storePixel px s).pastOut = s.pastOut := rfl
@[simp] theorem storePixel_pixelCount : (storePixel px s).pixelCount = s.pixelCount := rfl
@[simp] theorem storePixel_frameSize : (storePixel px s).frameSize = s.frameSize := rfl
end storePixel

section beginFrame
variable (s : State)

@[simp] theorem beginFrame_phase : (beginFrame s).phase = .busy := rfl
@[simp] theorem beginFrame_err : (beginFrame s).err = s.err := rfl
@[simp] theorem beginFrame_width : (beginFrame s).width = s.width := rfl
@[simp] theorem beginFrame_height : (beginFrame s).height = s.height := rfl
@[simp] theorem beginFrame_wrPtr : (beginFrame s).wrPtr = s.wrPtr := rfl
@[simp] theorem beginFrame_frameCount : (beginFrame s).frameCount = s.frameCount := rfl
@[simp] theorem beginFrame_encPos : (beginFrame s).encPos = 0#27 := rfl
@[simp] theorem beginFrame_faultInfo : (beginFrame s).faultInfo = s.faultInfo := rfl
@[simp] theorem beginFrame_rspValid : (beginFrame s).rspValid = s.rspValid := rfl
@[simp] theorem beginFrame_rspData : (beginFrame s).rspData = s.rspData := rfl
@[simp] theorem beginFrame_fm : (beginFrame s).fm = s.fm := rfl
@[simp] theorem beginFrame_out : (beginFrame s).out = s.out := rfl
@[simp] theorem beginFrame_fmCapacity : (beginFrame s).fmCapacity = s.fmCapacity := rfl
@[simp] theorem beginFrame_offered : (beginFrame s).offered = s.offered := rfl
@[simp] theorem beginFrame_agenda : (beginFrame s).agenda = s.agenda := rfl
@[simp] theorem beginFrame_taken : (beginFrame s).taken = s.taken := rfl
@[simp] theorem beginFrame_pastOut : (beginFrame s).pastOut = s.pastOut := rfl
@[simp] theorem beginFrame_pixelCount : (beginFrame s).pixelCount = s.pixelCount := rfl
@[simp] theorem beginFrame_frameSize : (beginFrame s).frameSize = s.frameSize := rfl
end beginFrame

section respond
variable (w : Word) (s : State)

@[simp] theorem respond_phase : (respond w s).phase = s.phase := rfl
@[simp] theorem respond_err : (respond w s).err = s.err := rfl
@[simp] theorem respond_width : (respond w s).width = s.width := rfl
@[simp] theorem respond_height : (respond w s).height = s.height := rfl
@[simp] theorem respond_wrPtr : (respond w s).wrPtr = s.wrPtr := rfl
@[simp] theorem respond_frameCount : (respond w s).frameCount = s.frameCount := rfl
@[simp] theorem respond_encPos : (respond w s).encPos = s.encPos := rfl
@[simp] theorem respond_faultInfo : (respond w s).faultInfo = s.faultInfo := rfl
@[simp] theorem respond_rspValid : (respond w s).rspValid = true := rfl
@[simp] theorem respond_rspData : (respond w s).rspData = w := rfl
@[simp] theorem respond_fm : (respond w s).fm = s.fm := rfl
@[simp] theorem respond_out : (respond w s).out = s.out := rfl
@[simp] theorem respond_fmCapacity : (respond w s).fmCapacity = s.fmCapacity := rfl
@[simp] theorem respond_offered : (respond w s).offered = s.offered := rfl
@[simp] theorem respond_agenda : (respond w s).agenda = s.agenda := rfl
@[simp] theorem respond_taken : (respond w s).taken = s.taken := rfl
@[simp] theorem respond_pastOut : (respond w s).pastOut = s.pastOut := rfl
@[simp] theorem respond_pixelCount : (respond w s).pixelCount = s.pixelCount := rfl
@[simp] theorem respond_frameSize : (respond w s).frameSize = s.frameSize := rfl
end respond

section emitByte
variable (b : Byte) (s : State)

@[simp] theorem emitByte_phase : (emitByte b s).phase = s.phase := rfl
@[simp] theorem emitByte_err : (emitByte b s).err = s.err := rfl
@[simp] theorem emitByte_width : (emitByte b s).width = s.width := rfl
@[simp] theorem emitByte_height : (emitByte b s).height = s.height := rfl
@[simp] theorem emitByte_wrPtr : (emitByte b s).wrPtr = s.wrPtr := rfl
@[simp] theorem emitByte_frameCount : (emitByte b s).frameCount = s.frameCount := rfl
@[simp] theorem emitByte_encPos : (emitByte b s).encPos = s.encPos + 1#27 := rfl
@[simp] theorem emitByte_faultInfo : (emitByte b s).faultInfo = s.faultInfo := rfl
@[simp] theorem emitByte_rspValid : (emitByte b s).rspValid = s.rspValid := rfl
@[simp] theorem emitByte_rspData : (emitByte b s).rspData = s.rspData := rfl
@[simp] theorem emitByte_fm : (emitByte b s).fm = s.fm := rfl
@[simp] theorem emitByte_out : (emitByte b s).out = s.out ++ [b] := rfl
@[simp] theorem emitByte_fmCapacity : (emitByte b s).fmCapacity = s.fmCapacity := rfl
@[simp] theorem emitByte_offered : (emitByte b s).offered = s.offered := rfl
@[simp] theorem emitByte_agenda : (emitByte b s).agenda = s.agenda := rfl
@[simp] theorem emitByte_taken : (emitByte b s).taken = s.taken := rfl
@[simp] theorem emitByte_pastOut : (emitByte b s).pastOut = s.pastOut := rfl
@[simp] theorem emitByte_pixelCount : (emitByte b s).pixelCount = s.pixelCount := rfl
@[simp] theorem emitByte_frameSize : (emitByte b s).frameSize = s.frameSize := rfl
end emitByte

section finishFrame
variable (s : State)

@[simp] theorem finishFrame_phase : (finishFrame s).phase = .idle := rfl
@[simp] theorem finishFrame_err : (finishFrame s).err = s.err := rfl
@[simp] theorem finishFrame_width : (finishFrame s).width = s.width := rfl
@[simp] theorem finishFrame_height : (finishFrame s).height = s.height := rfl
@[simp] theorem finishFrame_wrPtr : (finishFrame s).wrPtr = 0#24 := rfl
@[simp] theorem finishFrame_frameCount : (finishFrame s).frameCount = s.frameCount + 1#32 := rfl
@[simp] theorem finishFrame_encPos : (finishFrame s).encPos = s.encPos := rfl
@[simp] theorem finishFrame_faultInfo : (finishFrame s).faultInfo = s.faultInfo := rfl
@[simp] theorem finishFrame_rspValid : (finishFrame s).rspValid = s.rspValid := rfl
@[simp] theorem finishFrame_rspData : (finishFrame s).rspData = s.rspData := rfl
@[simp] theorem finishFrame_fm : (finishFrame s).fm = s.fm := rfl
@[simp] theorem finishFrame_out : (finishFrame s).out = s.out := rfl
@[simp] theorem finishFrame_fmCapacity : (finishFrame s).fmCapacity = s.fmCapacity := rfl
@[simp] theorem finishFrame_offered : (finishFrame s).offered = s.offered := rfl
@[simp] theorem finishFrame_agenda : (finishFrame s).agenda = s.agenda := rfl
@[simp] theorem finishFrame_taken : (finishFrame s).taken = s.taken := rfl
@[simp] theorem finishFrame_pastOut : (finishFrame s).pastOut = s.pastOut := rfl
@[simp] theorem finishFrame_pixelCount : (finishFrame s).pixelCount = s.pixelCount := rfl
@[simp] theorem finishFrame_frameSize : (finishFrame s).frameSize = s.frameSize := rfl
end finishFrame

section takeResponse
variable (s : State)

@[simp] theorem takeResponse_phase : (takeResponse s).phase = s.phase := rfl
@[simp] theorem takeResponse_err : (takeResponse s).err = s.err := rfl
@[simp] theorem takeResponse_width : (takeResponse s).width = s.width := rfl
@[simp] theorem takeResponse_height : (takeResponse s).height = s.height := rfl
@[simp] theorem takeResponse_wrPtr : (takeResponse s).wrPtr = s.wrPtr := rfl
@[simp] theorem takeResponse_frameCount : (takeResponse s).frameCount = s.frameCount := rfl
@[simp] theorem takeResponse_encPos : (takeResponse s).encPos = s.encPos := rfl
@[simp] theorem takeResponse_faultInfo : (takeResponse s).faultInfo = s.faultInfo := rfl
@[simp] theorem takeResponse_rspValid : (takeResponse s).rspValid = false := rfl
@[simp] theorem takeResponse_rspData : (takeResponse s).rspData = s.rspData := rfl
@[simp] theorem takeResponse_fm : (takeResponse s).fm = s.fm := rfl
@[simp] theorem takeResponse_out : (takeResponse s).out = s.out := rfl
@[simp] theorem takeResponse_fmCapacity : (takeResponse s).fmCapacity = s.fmCapacity := rfl
@[simp] theorem takeResponse_offered : (takeResponse s).offered = s.offered := rfl
@[simp] theorem takeResponse_agenda : (takeResponse s).agenda = s.agenda := rfl
@[simp] theorem takeResponse_taken : (takeResponse s).taken = s.taken ++ [s.rspData] := rfl
@[simp] theorem takeResponse_pastOut : (takeResponse s).pastOut = s.pastOut := rfl
@[simp] theorem takeResponse_pixelCount : (takeResponse s).pixelCount = s.pixelCount := rfl
@[simp] theorem takeResponse_frameSize : (takeResponse s).frameSize = s.frameSize := rfl
end takeResponse

section sinkFails
variable (s : State)

@[simp] theorem sinkFails_phase : (sinkFails s).phase = .fault := rfl
@[simp] theorem sinkFails_err : (sinkFails s).err = .sinkError := rfl
@[simp] theorem sinkFails_width : (sinkFails s).width = s.width := rfl
@[simp] theorem sinkFails_height : (sinkFails s).height = s.height := rfl
@[simp] theorem sinkFails_wrPtr : (sinkFails s).wrPtr = s.wrPtr := rfl
@[simp] theorem sinkFails_frameCount : (sinkFails s).frameCount = s.frameCount := rfl
@[simp] theorem sinkFails_encPos : (sinkFails s).encPos = s.encPos := rfl
@[simp] theorem sinkFails_faultInfo : (sinkFails s).faultInfo = s.encPos.setWidth 32 := rfl
@[simp] theorem sinkFails_rspValid : (sinkFails s).rspValid = s.rspValid := rfl
@[simp] theorem sinkFails_rspData : (sinkFails s).rspData = s.rspData := rfl
@[simp] theorem sinkFails_fm : (sinkFails s).fm = s.fm := rfl
@[simp] theorem sinkFails_out : (sinkFails s).out = s.out := rfl
@[simp] theorem sinkFails_fmCapacity : (sinkFails s).fmCapacity = s.fmCapacity := rfl
@[simp] theorem sinkFails_offered : (sinkFails s).offered = s.offered := rfl
@[simp] theorem sinkFails_agenda : (sinkFails s).agenda = s.agenda := rfl
@[simp] theorem sinkFails_taken : (sinkFails s).taken = s.taken := rfl
@[simp] theorem sinkFails_pastOut : (sinkFails s).pastOut = s.pastOut := rfl
@[simp] theorem sinkFails_pixelCount : (sinkFails s).pixelCount = s.pixelCount := rfl
@[simp] theorem sinkFails_frameSize : (sinkFails s).frameSize = s.frameSize := rfl
end sinkFails

section resetBlock
variable (s : State)

@[simp] theorem resetBlock_phase : (resetBlock s).phase = .unconfigured := rfl
@[simp] theorem resetBlock_err : (resetBlock s).err = .noFault := rfl
@[simp] theorem resetBlock_width : (resetBlock s).width = 0#12 := rfl
@[simp] theorem resetBlock_height : (resetBlock s).height = 0#12 := rfl
@[simp] theorem resetBlock_wrPtr : (resetBlock s).wrPtr = 0#24 := rfl
@[simp] theorem resetBlock_frameCount : (resetBlock s).frameCount = 0#32 := rfl
@[simp] theorem resetBlock_encPos : (resetBlock s).encPos = 0#27 := rfl
@[simp] theorem resetBlock_faultInfo : (resetBlock s).faultInfo = 0#32 := rfl
@[simp] theorem resetBlock_rspValid : (resetBlock s).rspValid = false := rfl
@[simp] theorem resetBlock_rspData : (resetBlock s).rspData = 0#32 := rfl
@[simp] theorem resetBlock_fm : (resetBlock s).fm = [] := rfl
@[simp] theorem resetBlock_out : (resetBlock s).out = [] := rfl
@[simp] theorem resetBlock_fmCapacity : (resetBlock s).fmCapacity = s.fmCapacity := rfl
@[simp] theorem resetBlock_offered : (resetBlock s).offered = s.offered := rfl
@[simp] theorem resetBlock_agenda : (resetBlock s).agenda = s.agenda := rfl
@[simp] theorem resetBlock_taken : (resetBlock s).taken = s.taken := rfl
@[simp] theorem resetBlock_pastOut : (resetBlock s).pastOut = s.pastOut ++ [s.out] := rfl
@[simp] theorem resetBlock_pixelCount : (resetBlock s).pixelCount = 0 := rfl
end resetBlock

end Sys2Proof.Machine
end

