-- ==== Sys2Proof/Laws/Pacer.lean ====
section
/-! SUPPORT. What one turn of a transmission, and one pass of the pacer's loop, can do. -/

namespace Sys2Proof.Machine

/-- A transmission that has not ended takes the next turn of those drawn. -/
theorem transmit_step {t : Turn} {rest : List Turn} {s u : State} (hf : s.phase ≠ .fault)
    (hg : s.offered ≠ [] ∨ s.phase = .busy) (h : step { s with agenda := t :: s.agenda } = .next u) :
    transmit (t :: rest) s = transmit rest u := by
  simp only [transmit, State.faulted, State.busy, h]
  rw [if_neg (by simpa using hf), if_neg]
  rcases hg with hg | hg <;> simp [hg]

/-- A block in FAULT ends a transmission at once. -/
theorem transmit_fault {s : State} (turns : List Turn) (hf : s.phase = .fault) : transmit turns s = .fatal s := by
  cases turns <;> exact if_pos (by simp [State.faulted, hf])

/-- A transmission has ended once every word is accepted and the block is neither BUSY nor in FAULT. -/
theorem transmit_done {s : State} (turns : List Turn) (hf : s.phase ≠ .fault) (hb : s.phase ≠ .busy)
    (ho : s.offered = []) : transmit turns s = .done s := by
  cases turns <;> simp [transmit, State.faulted, State.busy, hf, hb, ho]

@[simp] theorem pacerNext_nextDeadline (item : PacedFrame) (p : Pacer) :
    (pacerNext item p).nextDeadline = p.nextDeadline + item.delay := rfl

/-- After a pass the clock has reached the deadline, and has not gone back (R107). -/
theorem pacerNext_now_ge (item : PacedFrame) (p : Pacer) :
    p.nextDeadline + item.delay ≤ (pacerNext item p).now ∧ frameStart item p + item.cost ≤ (pacerNext item p).now := by
  simp only [pacerNext, sleepTime]; omega

end Sys2Proof.Machine
end

