-- ==== Sys2Proof/Laws/PerInstr.lean ====
section
/-! SUPPORT. Families of facts about every command as a piece of notation, one lemma per constructor. -/

/-- Every command's word has its row's fixed bits: reserved bits 0 and the opcode in place, the `mask` and `match` of
spec/opcode_table.json (R55, R57, R58). -/
def Sys2Proof.Laws.FixedBits.Statement (i : Sys2Proof.Instr) : Prop :=
  match i with
  | .config _ _ => Sys2Proof.encode i &&& 0xFF000000#32 = 0x10000000#32
  | .pixel _ _ _ => Sys2Proof.encode i &&& 0xFF000000#32 = 0x20000000#32
  | .encode => Sys2Proof.encode i &&& 0xFFFFFFFF#32 = 0x30000000#32
  | .cbLookup _ _ _ => Sys2Proof.encode i &&& 0xFFFC00F8#32 = 0x40000000#32
  | .mapLookup _ => Sys2Proof.encode i &&& 0xFF000000#32 = 0x50000000#32

theorem Sys2Proof.Laws.FixedBits.config (w h : BitVec 12) :
    Sys2Proof.Laws.FixedBits.Statement (.config w h) := by
  refine BitVec.eq_of_getElem_eq fun i hi => ?_
  simp only [Sys2Proof.encode, BitVec.getElem_and, BitVec.getElem_append]
  interval_cases i <;> simp

theorem Sys2Proof.Laws.FixedBits.pixel (r g b : BitVec 8) :
    Sys2Proof.Laws.FixedBits.Statement (.pixel r g b) := by
  refine BitVec.eq_of_getElem_eq fun i hi => ?_
  simp only [Sys2Proof.encode, BitVec.getElem_and, BitVec.getElem_append]
  interval_cases i <;> simp

theorem Sys2Proof.Laws.FixedBits.encode : Sys2Proof.Laws.FixedBits.Statement .encode := rfl

theorem Sys2Proof.Laws.FixedBits.cbLookup (ch : BitVec 2) (val : BitVec 8) (slot : Sys2Proof.Slot) :
    Sys2Proof.Laws.FixedBits.Statement (.cbLookup ch val slot) := by
  refine BitVec.eq_of_getElem_eq fun i hi => ?_
  simp only [Sys2Proof.encode, BitVec.getElem_and, BitVec.getElem_append]
  interval_cases i <;> simp

theorem Sys2Proof.Laws.FixedBits.mapLookup (p : BitVec 24) :
    Sys2Proof.Laws.FixedBits.Statement (.mapLookup p) := by
  refine BitVec.eq_of_getElem_eq fun i hi => ?_
  simp only [Sys2Proof.encode, BitVec.getElem_and, BitVec.getElem_append]
  interval_cases i <;> simp
end

