-- ==== Sys2Proof/Laws/Step.lean ====
section
/-! SUPPORT. Once for each meaning, for the emission step and for the step: everything it can do when it answers a next
state. Later proofs cite these and do not unfold the step. -/

namespace Sys2Proof.Machine

open Host.Outcome

theorem next_inj {s t : State} (h : (next s : Host.Outcome State Fault Refusal) = next t) : s = t := by
  cases h; rfl

/-- R83's outcomes. -/
theorem execConfig_next {w h : BitVec 12} {s t : State} (e : execConfig w h s = next t) :
    (s.phase ≠ .unconfigured ∧ t = faultCommand .configLocked (.config w h) s) ∨
    (s.phase = .unconfigured ∧ (w = 0#12 ∨ h = 0#12 ∨ s.fmCapacity < w.toNat * h.toNat) ∧
      t = faultCommand .badDimensions (.config w h) s) ∨
    (s.phase = .unconfigured ∧ w ≠ 0#12 ∧ h ≠ 0#12 ∧ w.toNat * h.toNat ≤ s.fmCapacity ∧
      t = bindDimensions w h s) := by
  unfold execConfig at e
  split at e
  · exact .inl ⟨‹_›, (next_inj e).symm⟩
  · rename_i hp
    have hp := not_not.mp hp
    split at e
    · exact .inr (.inl ⟨hp, by tauto, (next_inj e).symm⟩)
    · rename_i hz
      split at e
      · exact .inr (.inl ⟨hp, by tauto, (next_inj e).symm⟩)
      · exact .inr (.inr ⟨hp, by tauto, by tauto, by omega, (next_inj e).symm⟩)

/-- R84's outcomes. -/
theorem execPixel_next {r g b : BitVec 8} {s t : State} (e : execPixel r g b s = next t) :
    (s.phase = .unconfigured ∧ t = faultCommand .notConfigured (.pixel r g b) s) ∨
    (s.phase ≠ .unconfigured ∧ s.wrPtr.toNat = s.pixelCount ∧ t = faultCommand .frameOverflow (.pixel r g b) s) ∨
    (s.phase ≠ .unconfigured ∧ s.wrPtr.toNat ≠ s.pixelCount ∧ s.wrPtr.toNat < s.fmCapacity ∧
      t = storePixel (pixelOf r g b) s) := by
  unfold execPixel at e
  split at e
  · exact .inl ⟨‹_›, (next_inj e).symm⟩
  · split at e
    · exact .inr (.inl ⟨‹_›, ‹_›, (next_inj e).symm⟩)
    · split at e
      · cases e
      · exact .inr (.inr ⟨‹_›, ‹_›, by omega, (next_inj e).symm⟩)

/-- R85's outcomes. -/
theorem execEncode_next {s t : State} (e : execEncode s = next t) :
    (s.phase = .unconfigured ∧ t = faultCommand .notConfigured .encode s) ∨
    (s.phase ≠ .unconfigured ∧ s.wrPtr.toNat ≠ s.pixelCount ∧ t = faultCommand .frameUnderflow .encode s) ∨
    (s.phase ≠ .unconfigured ∧ s.wrPtr.toNat = s.pixelCount ∧ t = beginFrame s) := by
  unfold execEncode at e
  split at e
  · exact .inl ⟨‹_›, (next_inj e).symm⟩
  · split at e
    · exact .inr (.inl ⟨‹_›, ‹_›, (next_inj e).symm⟩)
    · exact .inr (.inr ⟨‹_›, not_not.mp ‹_›, (next_inj e).symm⟩)

/-- R76's outcomes. -/
theorem execCbLookup_next {ch : BitVec 2} {val : BitVec 8} {slot : Slot} {s t : State}
    (e : execCbLookup ch val slot s = next t) :
    (channelOf ch = none ∧ t = faultCommand .badChannel (.cbLookup ch val slot) s) ∨
    (∃ c, channelOf ch = some c ∧ t = respond (byteResponse (codebook c val slot)) s) := by
  unfold execCbLookup at e
  split at e
  · exact .inl ⟨‹_›, (next_inj e).symm⟩
  · exact .inr ⟨_, ‹_›, (next_inj e).symm⟩

/-- R81's outcomes. -/
theorem execMapLookup_next {p : BitVec 24} {s t : State} (e : execMapLookup p s = next t) :
    (s.phase = .unconfigured ∧ t = faultCommand .notConfigured (.mapLookup p) s) ∨
    (s.phase ≠ .unconfigured ∧ s.pixelCount ≤ p.toNat ∧ t = faultCommand .badIndex (.mapLookup p) s) ∨
    (s.phase ≠ .unconfigured ∧ p.toNat < s.pixelCount ∧
      t = respond (coordResponse (amap s.width.toNat p.toNat)) s) := by
  unfold execMapLookup at e
  split at e
  · exact .inl ⟨‹_›, (next_inj e).symm⟩
  · split at e
    · exact .inr (.inl ⟨‹_›, ‹_›, (next_inj e).symm⟩)
    · exact .inr (.inr ⟨‹_›, by omega, (next_inj e).symm⟩)

/-- The five effects a command can have, and its fault (R82, R98). The guards are those the invariants need. -/
theorem exec_next {i : Instr} {s t : State} (e : exec i s = next t) :
    (∃ code, code ≠ .noFault ∧ code ≠ .illegalCmd ∧ code ≠ .sinkError ∧ t = faultCommand code i s) ∨
    (∃ w h, i = .config w h ∧ s.phase = .unconfigured ∧ w ≠ 0#12 ∧ h ≠ 0#12 ∧
      w.toNat * h.toNat ≤ s.fmCapacity ∧ t = bindDimensions w h s) ∨
    (∃ r g b, i = .pixel r g b ∧ s.phase ≠ .unconfigured ∧ s.wrPtr.toNat ≠ s.pixelCount ∧
      s.wrPtr.toNat < s.fmCapacity ∧ t = storePixel (pixelOf r g b) s) ∨
    (i = .encode ∧ s.phase ≠ .unconfigured ∧ s.wrPtr.toNat = s.pixelCount ∧ t = beginFrame s) ∨
    (∃ w, ((∃ ch val slot, i = .cbLookup ch val slot) ∨ (∃ p, i = .mapLookup p)) ∧ t = respond w s) := by
  cases i with
  | config w h =>
    obtain ⟨_, e⟩ | ⟨_, _, e⟩ | ⟨a, b, c, d, e⟩ := execConfig_next e
    · exact .inl ⟨_, by decide, by decide, by decide, e⟩
    · exact .inl ⟨_, by decide, by decide, by decide, e⟩
    · exact .inr (.inl ⟨w, h, rfl, a, b, c, d, e⟩)
  | pixel r g b =>
    obtain ⟨_, e⟩ | ⟨_, _, e⟩ | ⟨a, b', c, e⟩ := execPixel_next e
    · exact .inl ⟨_, by decide, by decide, by decide, e⟩
    · exact .inl ⟨_, by decide, by decide, by decide, e⟩
    · exact .inr (.inr (.inl ⟨r, g, b, rfl, a, b', c, e⟩))
  | encode =>
    obtain ⟨_, e⟩ | ⟨_, _, e⟩ | ⟨a, b, e⟩ := execEncode_next e
    · exact .inl ⟨_, by decide, by decide, by decide, e⟩
    · exact .inl ⟨_, by decide, by decide, by decide, e⟩
    · exact .inr (.inr (.inr (.inl ⟨rfl, a, b, e⟩)))
  | cbLookup ch val slot =>
    obtain ⟨_, e⟩ | ⟨c, _, e⟩ := execCbLookup_next e
    · exact .inl ⟨_, by decide, by decide, by decide, e⟩
    · exact .inr (.inr (.inr (.inr ⟨_, .inl ⟨ch, val, slot, rfl⟩, e⟩)))
  | mapLookup p =>
    obtain ⟨_, e⟩ | ⟨_, _, e⟩ | ⟨_, _, e⟩ := execMapLookup_next e
    · exact .inl ⟨_, by decide, by decide, by decide, e⟩
    · exact .inl ⟨_, by decide, by decide, by decide, e⟩
    · exact .inr (.inr (.inr (.inr ⟨_, .inr ⟨p, rfl⟩, e⟩)))

/-- When the next byte exists, and what it is (R40, R86). -/
theorem frameByte_ok {w n j : Nat} {m : FrameMem} {b : Byte} (e : frameByte w n m j = .ok b) :
    j / 8 < n ∧ ∃ px, FrameMem.read m (ridx w (j / 8)) = some px ∧
      b = sym (group (packPixel px) (BitVec.ofNat 3 (j % 8))) := by
  unfold frameByte at e
  split at e
  · refine ⟨‹_›, ?_⟩
    split at e
    · cases e; exact ⟨_, ‹_›, rfl⟩
    · cases e
  · cases e

/-- What an emission step does when it does not stop (R86). -/
theorem emitStep_next {s t : State} (e : emitStep s = next t) :
    ∃ b, nextByte s = .ok b ∧ t = closeFrame (emitByte b s) := by
  unfold emitStep at e
  split at e
  · cases e
  · exact ⟨_, ‹_›, (next_inj e).symm⟩

/-- The two forms of a closed frame (R86). -/
theorem closeFrame_cases (s : State) :
    (s.encPos.toNat = s.frameSize ∧ closeFrame s = finishFrame s) ∨
    (s.encPos.toNat ≠ s.frameSize ∧ closeFrame s = s) := by
  unfold closeFrame
  by_cases h : s.encPos.toNat = s.frameSize <;> simp [h]

/-- What accepting the offered word does when it does not stop (R82). -/
theorem acceptCommand_next {s t : State} (e : acceptCommand s = next t) :
    (s.offered = [] ∧ t = s) ∨
    (∃ w ws, s.offered = w :: ws ∧ (∃ r, decode w = .error r) ∧ t = rejectIllegal w { s with offered := ws }) ∨
    (∃ w ws i, s.offered = w :: ws ∧ decode w = .ok i ∧ exec i { s with offered := ws } = next t) := by
  unfold acceptCommand fetchWord at e
  cases ho : s.offered with
  | nil => rw [ho] at e; exact .inl ⟨rfl, (next_inj e).symm⟩
  | cons w ws =>
    rw [ho] at e
    refine .inr ?_
    cases hd : decode w with
    | error r => simp only [hd] at e; exact .inl ⟨w, ws, rfl, ⟨r, hd⟩, (next_inj e).symm⟩
    | ok i => simp only [hd] at e; exact .inr ⟨w, ws, i, rfl, hd, e⟩

/-- The move a turn takes is enabled. -/
theorem moveOf_enabled {t : Turn} {s : State} {m : Move} (h : moveOf t s = some m) : enabled m s = true := by
  cases t with
  | move m' =>
    simp only [moveOf] at h
    split at h
    · cases h; assumption
    · cases h
  | cycle c =>
    simp only [moveOf, arbitrate] at h
    split at h
    · cases h; rfl
    · split at h
      · cases h; simp_all
      · split at h
        · cases h; simp_all
        · split at h
          · cases h; assumption
          · cases h

/-- Everything a step can do when it does not stop: nothing, or one enabled move of the first turn. -/
theorem step_next {s t : State} (e : step s = next t) :
    (s.agenda = [] ∧ t = s) ∨
    (∃ turn rest, s.agenda = turn :: rest ∧ moveOf turn { s with agenda := rest } = none ∧
      t = { s with agenda := rest }) ∨
    (∃ turn rest m, s.agenda = turn :: rest ∧ moveOf turn { s with agenda := rest } = some m ∧
      enabled m { s with agenda := rest } = true ∧ perform m { s with agenda := rest } = next t) := by
  unfold step at e
  cases ha : s.agenda with
  | nil => rw [ha] at e; exact .inl ⟨rfl, (next_inj e).symm⟩
  | cons turn rest =>
    rw [ha] at e
    refine .inr ?_
    simp only [runTurn] at e
    cases hm : moveOf turn { s with agenda := rest } with
    | none => rw [hm] at e; exact .inl ⟨turn, rest, rfl, hm, (next_inj e).symm⟩
    | some m => rw [hm] at e; exact .inr ⟨turn, rest, m, rfl, hm, moveOf_enabled hm, e⟩

/-- A turn that takes the response is the HOST's own turn for it. -/
theorem moveOf_take {t : Turn} {s : State} (h : moveOf t s = some .take) : t = .move .take := by
  cases t with
  | move m =>
    simp only [moveOf] at h
    split at h
    · cases h; rfl
    · cases h
  | cycle c =>
    simp only [moveOf, arbitrate] at h
    repeat' split at h
    all_goals cases h

/-- A turn that resets is the reset input's. -/
theorem moveOf_reset {t : Turn} {s : State} (h : moveOf t s = some .reset) :
    t = .move .reset ∨ ∃ c : Cycle, c.reset = true ∧ t = .cycle c := by
  cases t with
  | move m =>
    simp only [moveOf] at h
    split at h
    · cases h; exact .inl rfl
    · cases h
  | cycle c =>
    simp only [moveOf, arbitrate] at h
    split at h
    · exact .inr ⟨c, ‹_›, rfl⟩
    · repeat' split at h
      all_goals cases h

/-- Everything a step can do when it does not stop, with the guards of each case. -/
theorem step_cases {s t : State} (e : step s = next t) :
    (∃ ag, t = { s with agenda := ag }) ∨
    (∃ ag w ws, s.cmdReady = true ∧ s.offered = w :: ws ∧ (∃ r, decode w = .error r) ∧
      t = rejectIllegal w { s with agenda := ag, offered := ws }) ∨
    (∃ ag w ws i, s.cmdReady = true ∧ s.offered = w :: ws ∧ decode w = .ok i ∧
      exec i { s with agenda := ag, offered := ws } = next t) ∨
    (∃ ag, s.rspValid = true ∧ s.agenda = .move .take :: ag ∧ t = takeResponse { s with agenda := ag }) ∨
    (∃ ag b, s.phase = .busy ∧ nextByte s = .ok b ∧ t = closeFrame (emitByte b { s with agenda := ag })) ∨
    (∃ ag, s.phase ≠ .fault ∧ t = sinkFails { s with agenda := ag }) ∨
    (∃ ag, (s.agenda = .move .reset :: ag ∨ ∃ c : Cycle, c.reset = true ∧ s.agenda = .cycle c :: ag) ∧
      t = resetBlock { s with agenda := ag }) := by
  obtain ⟨_, rfl⟩ | ⟨_, ag, _, _, rfl⟩ | ⟨turn, ag, m, ha, hm, he, hp⟩ := step_next e
  · exact .inl ⟨_, rfl⟩
  · exact .inl ⟨_, rfl⟩
  · cases m with
    | command =>
      have hr : s.cmdReady = true := by
        simp only [enabled, Bool.and_eq_true] at he
        exact he.2
      obtain ⟨_, rfl⟩ | ⟨w, ws, ho, hd, rfl⟩ | ⟨w, ws, i, ho, hd, hx⟩ := acceptCommand_next hp
      · exact .inl ⟨_, rfl⟩
      · exact .inr (.inl ⟨ag, w, ws, hr, ho, hd, rfl⟩)
      · exact .inr (.inr (.inl ⟨ag, w, ws, i, hr, ho, hd, hx⟩))
    | take =>
      have ht := moveOf_take hm
      subst ht
      exact .inr (.inr (.inr (.inl ⟨ag, he, ha, (next_inj hp).symm⟩)))
    | emit =>
      obtain ⟨b, hb, rfl⟩ := emitStep_next hp
      exact .inr (.inr (.inr (.inr (.inl ⟨ag, b, by simpa [enabled, State.outValid] using he, hb, rfl⟩))))
    | sinkError =>
      exact .inr (.inr (.inr (.inr (.inr (.inl ⟨ag, by simpa [enabled, State.faulted] using he,
        (next_inj hp).symm⟩)))))
    | reset =>
      refine .inr (.inr (.inr (.inr (.inr (.inr ⟨ag, ?_, (next_inj hp).symm⟩)))))
      obtain rfl | ⟨c, hc, rfl⟩ := moveOf_reset hm
      · exact .inl ha
      · exact .inr ⟨c, hc, ha⟩

end Sys2Proof.Machine
end

