-- ==== Sys2Proof/Tests/Slice0.lean ====
section
/-! SUPPORT. The model's own tests: every expected value is taken from spec/95_test_vectors.md (its tables named at each
test), and the witnesses that the hypotheses of the obligations can be met. -/

namespace Sys2Proof.Tests

open Sys2Proof.Machine Sys2Proof.Safety

/-! Decoding, from words written out bit by bit in the field order of R55 and R56 (V12, V4). -/

theorem test_decode_config :
    decode 0b0001_0000_000000000010_000000000101#32 = .ok (.config 2#12 5#12) := by decide
theorem test_decode_pixel :
    decode 0b0010_0000_00010010_00110100_01010110#32 = .ok (.pixel 0x12#8 0x34#8 0x56#8) := by decide
theorem test_decode_encode :
    decode 0b0011_0000000000000000000000000000#32 = .ok .encode := by decide
theorem test_decode_cbLookup :
    decode 0b0100_0000000000_10_11111110_00000_101#32 = .ok (.cbLookup 2#2 0xFE#8 5#3) := by decide
theorem test_decode_mapLookup :
    decode 0b0101_0000_100000000000000000000001#32 = .ok (.mapLookup 0x800001#24) := by decide

/-- V12's illegal words: reserved opcodes, then a reserved bit of each format. -/
theorem test_decode_illegal :
    decode 0x00000000#32 = .error .reservedOpcode ∧ decode 0x60000000#32 = .error .reservedOpcode ∧
    decode 0xF0000000#32 = .error .reservedOpcode ∧ decode 0x11002002#32 = .error .reservedBits ∧
    decode 0x2F000000#32 = .error .reservedBits ∧ decode 0x30000001#32 = .error .reservedBits ∧
    decode 0x40040000#32 = .error .reservedBits ∧ decode 0x40000008#32 = .error .reservedBits ∧
    decode 0x51000000#32 = .error .reservedBits := by decide

/-- The words of V3 to V8, encoded. -/
theorem test_encode_words :
    encode (.config 2#12 2#12) = 0x10002002#32 ∧ encode (.pixel 255#8 0#8 0#8) = 0x20FF0000#32 ∧
    encode .encode = 0x30000000#32 ∧ encode (.cbLookup 1#2 0xA5#8 0#3) = 0x4001A500#32 ∧
    encode (.mapLookup 9#24) = 0x50000009#32 := by decide

/-! Well-formedness of source lines: for each check a line that it refuses (R56, R62, R63). -/

theorem smoke_config_width : Source.wellFormed none (.config 4096 1) = false := by decide
theorem smoke_config_height : Source.wellFormed none (.config 1 4096) = false := by decide
theorem smoke_pixel_channels :
    Source.wellFormed none (.pixel 256 0 0) = false ∧ Source.wellFormed none (.pixel 0 256 0) = false ∧
    Source.wellFormed none (.pixel 0 0 256) = false := by decide
theorem smoke_cbLookup_channel : Source.wellFormed none (.cbLookup 4 0 0) = false := by decide
theorem smoke_cbLookup_value : Source.wellFormed none (.cbLookup 0 256 0) = false := by decide
theorem smoke_cbLookup_slot : Source.wellFormed none (.cbLookup 0 0 8) = false := by decide
theorem smoke_mapLookup_index : Source.wellFormed none (.mapLookup 16777216) = false := by decide
theorem smoke_fill_before_config : Source.wellFormed none (.fill 0 0 0) = false := by decide
theorem smoke_fill_channel : Source.wellFormed (some 4) (.fill 0 256 0) = false := by decide
theorem smoke_frame_length : Source.wellFormed (some 2) (.frame [(0, 0, 0)]) = false := by decide
theorem smoke_frame_channel : Source.wellFormed (some 1) (.frame [(0, 0, 256)]) = false := by decide
theorem smoke_showFrame_before_config : Source.wellFormed none (.showFrame 0 0 0) = false := by decide
theorem smoke_showFrame_channel : Source.wellFormed (some 4) (.showFrame 256 0 0) = false := by decide
/-- The largest value of every field is taken, CH = 3 among them (R56). -/
theorem smoke_largest_fit :
    Source.wellFormed none (.config 4095 4095) = true ∧ Source.wellFormed none (.pixel 255 255 255) = true ∧
    Source.wellFormed none (.cbLookup 3 255 7) = true ∧ Source.wellFormed none (.mapLookup 16777215) = true ∧
    Source.wellFormed (some 1) (.frame [(255, 255, 255)]) = true := by decide

/-! Small states, all in a block with FM_CAPACITY = 16. -/

/-- After reset. -/
def base : State := State.resetWith 16

/-- IDLE with the given frame. -/
def idleAt (w h : BitVec 12) (wrPtr : BitVec 24) (fm : FrameMem) : State :=
  { base with phase := .idle, width := w, height := h, wrPtr := wrPtr, fm := fm }

/-- W1's four pixels: red, green, blue, white. -/
def w1Frame : FrameMem := [(0, 0xFF0000#24), (1, 0x00FF00#24), (2, 0x0000FF#24), (3, 0xFFFFFF#24)]

/-- IDLE with W1's frame loaded. -/
def loaded : State := idleAt 2#12 2#12 4#24 w1Frame

/-- BUSY in W1's frame. -/
def busyAt (pos : BitVec 27) : State := { loaded with phase := .busy, encPos := pos }

/-- FAULT after an illegal word. -/
def faulted : State := { base with phase := .fault, err := .illegalCmd, faultInfo := 0x60000000#32 }

/-- A response pending. -/
def answered : State := { base with rspValid := true, rspData := 0x0000005A#32 }

/-- The HOST offers one word and has the turn. -/
def ask (s : State) (word : Word) : State := s.withFetchWord 32 word.toNat

/-- One move is the next turn. -/
def turn (m : Move) (s : State) : State := { s with agenda := [.move m] }

/-- One cycle is the next turn. -/
def cycle (c : Machine.Cycle) (s : State) : State := { s with agenda := [.cycle c] }

/-- The state after one step, if the machine goes on. -/
def after (s : State) : Option State :=
  match step s with
  | .next t => some t
  | .fault _ => none
  | .refused _ => none

/-- Some registers after one step: STATUS and the one at address `ra`. -/
def statusAnd (ra : BitVec 3) (s : State) : Option (Word × Word) :=
  (after s).map (fun t => (readRegister 0#3 t, readRegister ra t))

/-! Commands, at most two tests each (V8, V13, V4, V7). -/

theorem test_config_binds : statusAnd 1#3 (ask base 0x10004004#32) = some (0x00000001#32, 0x00004004#32) := by decide
theorem test_config_capacity :
    statusAnd 5#3 (ask base 0x10005004#32) = some (0x00000043#32, 0x10005004#32) := by decide
theorem test_pixel_stores :
    (after (ask (idleAt 2#12 2#12 3#24 []) 0x20FFFF01#32)).map (fun t => (t.fm, t.wrPtr)) =
      some ([(3, 0xFFFF01#24)], 4#24) := by decide
theorem test_pixel_overflow :
    statusAnd 5#3 (ask (idleAt 1#12 1#12 1#24 [(0, 0#24)]) 0x20000000#32) =
      some (0x00000053#32, 0x20000000#32) := by decide
theorem test_encode_starts :
    statusAnd 4#3 (ask { loaded with encPos := 32#27 } 0x30000000#32) = some (0x00000002#32, 0#32) := by decide
theorem test_encode_underflow :
    statusAnd 4#3 (ask { idleAt 1#12 1#12 0#24 [(0, 0#24)] with encPos := 8#27, frameCount := 1#32 } 0x30000000#32) =
      some (0x00000063#32, 8#32) := by decide
theorem test_cbLookup_responds :
    (after (ask base 0x4001A500#32)).map (fun t => (t.phase, t.rspValid, t.rspData)) =
      some (.unconfigured, true, 0x0000001A#32) := by decide
theorem test_cbLookup_bad_channel :
    statusAnd 5#3 (ask base 0x40030000#32) = some (0x00000073#32, 0x40030000#32) := by decide
theorem test_mapLookup_responds :
    (after (ask (idleAt 3#12 3#12 0#24 []) 0x50000003#32)).map (fun t => (t.rspValid, t.rspData)) =
      some (true, 0x00002001#32) := by decide
theorem test_mapLookup_bad_index :
    statusAnd 5#3 (ask (idleAt 3#12 3#12 0#24 []) 0x50000009#32) = some (0x00000083#32, 0x50000009#32) := by decide

/-! The remaining rows of V13, and the other steps (V9, V10, V14). -/

theorem test_illegal_word : statusAnd 5#3 (ask base 0x60000000#32) = some (0x00000013#32, 0x60000000#32) := by decide
theorem test_not_configured :
    statusAnd 5#3 (ask base 0x30000000#32) = some (0x00000023#32, 0x30000000#32) := by decide
theorem test_config_locked_before_operands :
    statusAnd 5#3 (ask loaded 0x10000000#32) = some (0x00000033#32, 0x10000000#32) := by decide
theorem test_sink_error :
    statusAnd 5#3 (turn .sinkError (busyAt 20#27)) = some (0x00000093#32, 0x00000014#32) := by decide
theorem test_emission_middle :
    (after (turn .emit (busyAt 29#27))).map (fun t => (t.phase, t.out, t.encPos)) =
      some (.busy, [0x52#8], 30#27) := by decide
theorem test_emission_last_wraps_frame_count :
    (after (turn .emit { busyAt 31#27 with frameCount := 0xFFFFFFFF#32 })).map
      (fun t => (t.phase, t.out, t.wrPtr, t.encPos, t.frameCount)) =
      some (.idle, [0x12#8], 0#24, 32#27, 0#32) := by decide
theorem test_take :
    (after (turn .take answered)).map (fun t => (t.rspValid, t.taken)) = some (false, [0x0000005A#32]) := by decide
theorem test_reset_in_frame :
    (after (turn .reset { busyAt 10#27 with out := [0x5B#8] })).map
      (fun t => (t.phase, t.encPos, t.out, t.pastOut)) = some (.unconfigured, 0#27, [], [[0x5B#8]]) := by decide
theorem test_registers :
    readRegister 2#3 (idleAt 3#12 2#12 6#24 []) = 0x00000006#32 ∧
    readRegister 1#3 (idleAt 3#12 2#12 6#24 []) = 0x00003002#32 ∧
    readRegister 6#3 faulted = 0#32 ∧ readRegister 7#3 faulted = 0#32 ∧
    readRegister 0#3 answered = 0x00000004#32 := by decide
theorem test_reset_state_decides :
    State.resetWith 16 = { State.resetWith 16 with fm := [] } ∧ FrameMem.wf (State.resetWith 16).fm = true := by decide

/-! The tables of V1, V2, V3, V5. -/

theorem test_sym_table :
    [0#3, 1#3, 2#3, 3#3, 4#3, 5#3, 6#3, 7#3].map sym =
      [0x5B#8, 0x5A#8, 0x53#8, 0x52#8, 0x1B#8, 0x1A#8, 0x13#8, 0x12#8] := by decide
theorem test_unsym : unsym 0x5B#8 = 0#3 ∧ unsym 0x12#8 = 7#3 ∧ unsym 0x1A#8 = 5#3 := by decide
theorem test_pixel_bytes :
    encodePacked (pack 0x12#8 0x34#8 0x56#8) =
      [0x5A#8, 0x1A#8, 0x5B#8, 0x5A#8, 0x5A#8, 0x5A#8, 0x53#8, 0x13#8] ∧
    encodePacked (pack 0xA5#8 0x5A#8 0xC3#8) =
      [0x53#8, 0x13#8, 0x1A#8, 0x53#8, 0x53#8, 0x12#8, 0x5B#8, 0x52#8] := by decide
theorem test_codebook_entries :
    slotsInOrder.map (codebook .red 0xA5#8) =
      [0x5B#8, 0x5B#8, 0x5A#8, 0x53#8, 0x53#8, 0x1B#8, 0x5B#8, 0x5B#8] ∧
    slotsInOrder.map (codebook .green 0x7F#8) =
      [0x52#8, 0x12#8, 0x13#8, 0x5B#8, 0x5B#8, 0x5B#8, 0x5B#8, 0x5B#8] ∧
    slotsInOrder.map (codebook .blue 0xC3#8) =
      [0x5B#8, 0x5B#8, 0x5B#8, 0x5B#8, 0x5B#8, 0x52#8, 0x5B#8, 0x52#8] := by decide
theorem test_amap_tables :
    (List.range 9).map (amap 3) = [(0, 0), (1, 0), (2, 0), (2, 1), (1, 1), (0, 1), (0, 2), (1, 2), (2, 2)] ∧
    (List.range 10).map (ridx 5) = [0, 1, 2, 3, 4, 9, 8, 7, 6, 5] := by decide
/-- W1: the encoded buffer. -/
theorem test_frame_bytes :
    frameBytes 2 w1Frame 4 = some
      ([0x5B#8, 0x5B#8, 0x5A#8, 0x12#8, 0x12#8, 0x1B#8, 0x5B#8, 0x5B#8] ++
       [0x12#8, 0x12#8, 0x13#8, 0x5B#8, 0x5B#8, 0x5B#8, 0x5B#8, 0x5B#8] ++
       [0x12#8, 0x12#8, 0x12#8, 0x12#8, 0x12#8, 0x12#8, 0x12#8, 0x12#8] ++
       [0x5B#8, 0x5B#8, 0x5B#8, 0x5B#8, 0x5B#8, 0x52#8, 0x12#8, 0x12#8]) := by decide

/-- R122's cells of group 1 (b2 b1 b0 = 0 0 1), symbol byte 0x5A. -/
theorem test_line_cells :
    lineLevels .direct 0x5A#8 = [false, false, true, false, true, true, false, true, true] := by decide

/-! The host's side: V11, W7, and R62's notation. -/

theorem test_quantizer :
    quantize .by256 Int.floor (.finite (1 / 2)) = some 128#8 ∧
    quantize .by256 Int.floor (.finite (1 / 4)) = some 64#8 ∧
    quantize .by255 Int.floor (.finite (3 / 2)) = some 255#8 ∧
    quantize .by255 Int.floor (.finite (-1 / 2)) = some 0#8 := by
  norm_num [quantize, gamma, clampByte, QuantScale.factor]
  decide
/-- An item with this delay and cost, and no other draw. -/
def timed (delay cost : Nat) : PacedFrame :=
  { pixels := [], delay := delay, wait := 0, turns := [], cost := cost, overSleep := 0 }

/-- W7, in units of 0.01 s: the clock when frames 2 and 3 are asked for, in the three rows of its table. -/
theorem test_pacer_rows :
    ((pacerNext (timed 10 0) (pacerStart 0)).now = 10 ∧
      (pacerNext (timed 20 0) (pacerNext (timed 10 0) (pacerStart 0))).now = 30) ∧
    ((pacerNext (timed 10 25) (pacerStart 0)).now = 25 ∧
      (pacerNext (timed 20 0) (pacerNext (timed 10 25) (pacerStart 0))).now = 30) ∧
    ((pacerNext (timed 10 25) (pacerStart 0)).now = 25 ∧
      (pacerNext (timed 20 25) (pacerNext (timed 10 25) (pacerStart 0))).now = 50) := by decide
/-- R107's `PIXEL x N, ENCODE`, in the words of V8. -/
theorem test_frame_commands :
    (frameCommands [0xFF0000#24, 0xFFFFFF#24]).map encode = [0x20FF0000#32, 0x20FFFFFF#32, 0x30000000#32] := by decide
theorem test_parse_command :
    parseLine ['C', 'O', 'N', 'F', 'I', 'G', ' ', '3', ',', ' ', '2', ' ', ';', 'x'] = some (some (.config 3 2)) := by
  decide
theorem test_parse_hex_channel :
    parseLine ['C', 'B', '_', 'L', 'O', 'O', 'K', 'U', 'P', ' ', 'G', ',', '0', 'x', 'A', '5', ',', '0'] =
      some (some (.cbLookup 1 0xA5 0)) := by decide
theorem test_parse_frame :
    parseLine ['F', 'R', 'A', 'M', 'E', ' ', '(', '1', ',', '2', ',', '3', ')', ',', '(', '4', ',', '5', ',', '6', ')'] =
      some (some (.frame [(1, 2, 3), (4, 5, 6)])) := by decide
theorem test_assemble_fill :
    assemble [.config 1 2, .fill 7 8 9, .sink 1] =
      some [.command (.config 1#12 2#12), .command (.pixel 7#8 8#8 9#8), .command (.pixel 7#8 8#8 9#8),
        .move .emit] := by decide

/-! Witnesses: for every obligation with hypotheses, states and operands that meet them, clause by clause (the clauses in
the obligation's own order, at a boundary value where a clause has a range). -/

theorem witness_EncodeInvertsDecode : decode 0x50FFFFFF#32 = .ok (.mapLookup 0xFFFFFF#24) := by decide

theorem witness_DecodeByOpcode_legal :
    ((0x10FFFFFF#32).extractLsb 31 28 = 0x1#4 ∧ 0x10FFFFFF#32 &&& 0x0F000000#32 = 0#32) ∧
    ((0x20FFFFFF#32).extractLsb 31 28 = 0x2#4 ∧ 0x20FFFFFF#32 &&& 0x0F000000#32 = 0#32) ∧
    ((0x30000000#32).extractLsb 31 28 = 0x3#4 ∧ 0x30000000#32 &&& 0x0FFFFFFF#32 = 0#32) ∧
    ((0x4003FF07#32).extractLsb 31 28 = 0x4#4 ∧ 0x4003FF07#32 &&& 0x0FFC00F8#32 = 0#32) ∧
    ((0x50FFFFFF#32).extractLsb 31 28 = 0x5#4 ∧ 0x50FFFFFF#32 &&& 0x0F000000#32 = 0#32) := by decide

/-- The illegal clause's alternatives, and two equal words for its uniqueness clause. -/
theorem witness_DecodeByOpcode_illegal :
    (0x0FFFFFFF#32).extractLsb 31 28 = 0x0#4 ∧ 0x6#4 ≤ (0x60000000#32).extractLsb 31 28 ∧
    ((0x11002002#32).extractLsb 31 28 = 0x1#4 ∧ 0x11002002#32 &&& 0x0F000000#32 ≠ 0#32) ∧
    ((0x28000000#32).extractLsb 31 28 = 0x2#4 ∧ 0x28000000#32 &&& 0x0F000000#32 ≠ 0#32) ∧
    ((0x51000000#32).extractLsb 31 28 = 0x5#4 ∧ 0x51000000#32 &&& 0x0F000000#32 ≠ 0#32) ∧
    ((0x30000001#32).extractLsb 31 28 = 0x3#4 ∧ 0x30000001#32 &&& 0x0FFFFFFF#32 ≠ 0#32) ∧
    ((0x40000008#32).extractLsb 31 28 = 0x4#4 ∧ 0x40000008#32 &&& 0x0FFC00F8#32 ≠ 0#32) ∧
    (decode 0x30000000#32 = .ok .encode ∧ decode 0x30000000#32 = .ok .encode) := by decide

theorem witness_IllegalWordFaults :
    decode 0x60000000#32 = .error .reservedOpcode ∧ (ask base 0x60000000#32).agenda = .move .command :: [] ∧
    (ask base 0x60000000#32).offered = 0x60000000#32 :: [] ∧ (ask base 0x60000000#32).cmdReady = true := by decide

theorem witness_StepRunsDecodedCommand :
    (decode 0x10002002#32 = .ok (.config 2#12 2#12) ∧ (ask base 0x10002002#32).agenda = .move .command :: [] ∧
      (ask base 0x10002002#32).offered = 0x10002002#32 :: [] ∧ (ask base 0x10002002#32).cmdReady = true) ∧
    (decodeTableWord 32 0x30000000 = some .encode ∧ loaded.cmdReady = true) := by decide

/-- The three causes of cmd_ready = 0. -/
theorem witness_StalledCommandStaysOffered :
    ((ask (busyAt 0#27) 0#32).agenda = .move .command :: [] ∧ (ask (busyAt 0#27) 0#32).cmdReady = false) ∧
    ((ask faulted 0#32).agenda = .move .command :: [] ∧ (ask faulted 0#32).cmdReady = false) ∧
    ((ask answered 0#32).agenda = .move .command :: [] ∧ (ask answered 0#32).cmdReady = false) := by decide

theorem witness_DisabledTurnChangesNothing :
    base.agenda = [] ∧
    ((turn .take base).agenda = .move .take :: [] ∧ (turn .take base).rspValid = false) ∧
    ((turn .emit base).agenda = .move .emit :: [] ∧ (turn .emit base).phase ≠ .busy) ∧
    ((turn .sinkError faulted).agenda = .move .sinkError :: [] ∧ (turn .sinkError faulted).phase = .fault) ∧
    ((turn .command base).agenda = .move .command :: [] ∧ (turn .command base).offered = []) := by decide

theorem witness_CyclePriority :
    ((cycle ⟨true, true, true⟩ (busyAt 0#27)).agenda = .cycle ⟨true, true, true⟩ :: []) ∧
    ((cycle ⟨false, true, true⟩ (busyAt 0#27)).agenda = .cycle ⟨false, true, true⟩ :: [] ∧
      (cycle ⟨false, true, true⟩ (busyAt 0#27)).phase ≠ .fault) ∧
    ((cycle ⟨false, false, true⟩ (busyAt 0#27)).agenda = .cycle ⟨false, false, true⟩ :: [] ∧
      (cycle ⟨false, false, true⟩ (busyAt 0#27)).phase = .busy) ∧
    ((cycle ⟨false, true, true⟩ faulted).agenda = .cycle ⟨false, true, true⟩ :: [] ∧
      (cycle ⟨false, true, true⟩ faulted).phase = .fault ∧
      ¬ ((cycle ⟨false, true, true⟩ faulted).phase = .busy ∧ true = true)) ∧
    ((cycle ⟨false, true, true⟩ base).phase ≠ .fault ∧ (after (cycle ⟨false, true, true⟩ base)).isSome) := by decide

theorem witness_LevelOutputs :
    (turn .emit (busyAt 0#27)).agenda = .move .emit :: [] ∧ (turn .emit (busyAt 0#27)).phase = .busy ∧
    (after (turn .emit (busyAt 0#27))).isSome := by decide

/-- ConfigCommand's four clauses, its two halves of acceptance, and its reserved bits. -/
theorem witness_ConfigCommand :
    (loaded.cmdReady = true ∧ loaded.phase = .idle) ∧
    (base.cmdReady = true ∧ base.phase = .unconfigured ∧ (0#12 = 0#12 ∨ 0xFFF#12 = 0#12)) ∧
    (base.cmdReady = true ∧ base.phase = .unconfigured ∧ (17#12).toNat * (1#12).toNat > base.fmCapacity) ∧
    (base.cmdReady = true ∧ base.phase = .unconfigured ∧ 16#12 ≠ 0#12 ∧ 1#12 ≠ 0#12 ∧
      (16#12).toNat * (1#12).toNat ≤ base.fmCapacity) ∧
    ((ask base (encode (.config 2#12 2#12))).agenda = .move .command :: [] ∧
      (ask base (encode (.config 2#12 2#12))).offered = encode (.config 2#12 2#12) :: [] ∧
      (ask base (encode (.config 2#12 2#12))).phase = .unconfigured ∧
      (ask base (encode (.config 2#12 2#12))).rspValid = false) ∧
    ((ask answered (encode (.config 2#12 2#12))).offered = encode (.config 2#12 2#12) :: [] ∧
      (ask answered (encode (.config 2#12 2#12))).rspValid = true) ∧
    (opcodeOf 0x11002002#32 = 0x1#4 ∧ 0x11002002#32 &&& 0x0F000000#32 ≠ 0#32 ∧
      (ask base 0x11002002#32).offered = 0x11002002#32 :: [] ∧ (ask base 0x11002002#32).cmdReady = true) := by decide

/-- PixelCommand's four clauses on the state; the last is a state that no run reaches, with WR_PTR at FM_CAPACITY. -/
theorem witness_PixelCommand :
    (base.cmdReady = true ∧ base.phase = .unconfigured) ∧
    (loaded.cmdReady = true ∧ loaded.phase = .idle ∧ loaded.wrPtr.toNat = loaded.width.toNat * loaded.height.toNat) ∧
    ((idleAt 4#12 4#12 15#24 []).cmdReady = true ∧ (idleAt 4#12 4#12 15#24 []).phase = .idle ∧
      (idleAt 4#12 4#12 15#24 []).wrPtr.toNat ≠ 4 * 4 ∧
      (idleAt 4#12 4#12 15#24 []).wrPtr.toNat < (idleAt 4#12 4#12 15#24 []).fmCapacity) ∧
    ((idleAt 5#12 4#12 16#24 []).cmdReady = true ∧ (idleAt 5#12 4#12 16#24 []).phase = .idle ∧
      (idleAt 5#12 4#12 16#24 []).wrPtr.toNat ≠ 5 * 4 ∧
      (idleAt 5#12 4#12 16#24 []).fmCapacity ≤ (idleAt 5#12 4#12 16#24 []).wrPtr.toNat) ∧
    ((ask loaded (encode (.pixel 0#8 0#8 0#8))).agenda = .move .command :: [] ∧
      (ask loaded (encode (.pixel 0#8 0#8 0#8))).offered = encode (.pixel 0#8 0#8 0#8) :: [] ∧
      (ask loaded (encode (.pixel 0#8 0#8 0#8))).phase = .idle) ∧
    (ask (busyAt 0#27) (encode (.pixel 0#8 0#8 0#8))).phase = .busy ∧
    (opcodeOf 0x2F000000#32 = 0x2#4 ∧ 0x2F000000#32 &&& 0x0F000000#32 ≠ 0#32) := by decide

theorem witness_EncodeCommand :
    (base.cmdReady = true ∧ base.phase = .unconfigured) ∧
    ((idleAt 2#12 2#12 3#24 []).cmdReady = true ∧ (idleAt 2#12 2#12 3#24 []).phase = .idle ∧
      (idleAt 2#12 2#12 3#24 []).wrPtr.toNat ≠ 2 * 2) ∧
    (loaded.cmdReady = true ∧ loaded.phase = .idle ∧ loaded.wrPtr.toNat = loaded.width.toNat * loaded.height.toNat) ∧
    ((ask loaded (encode .encode)).agenda = .move .command :: [] ∧
      (ask loaded (encode .encode)).offered = encode .encode :: [] ∧ (ask loaded (encode .encode)).phase = .idle) ∧
    (ask faulted (encode .encode)).phase = .fault ∧
    (opcodeOf 0x30000001#32 = 0x3#4 ∧ 0x30000001#32 &&& 0x0FFFFFFF#32 ≠ 0#32) := by decide

theorem witness_CbLookupCommand :
    (base.cmdReady = true ∧ 3#2 = 3#2) ∧ loaded.cmdReady = true ∧
    3 ≤ (3#3).toNat ∧ ((1#3).toNat < 2 ∨ 5 < (1#3).toNat) ∧ ((6#3).toNat < 2 ∨ 5 < (6#3).toNat) ∧ (4#3).toNat < 5 ∧
    ((ask base (encode (.cbLookup 0#2 255#8 2#3))).agenda = .move .command :: [] ∧
      (ask base (encode (.cbLookup 0#2 255#8 2#3))).offered = encode (.cbLookup 0#2 255#8 2#3) :: [] ∧
      (ask base (encode (.cbLookup 0#2 255#8 2#3))).rspValid = false) ∧
    (ask answered (encode (.cbLookup 0#2 255#8 2#3))).rspValid = true ∧
    (opcodeOf 0x40040000#32 = 0x4#4 ∧ 0x40040000#32 &&& 0x0FFC00F8#32 ≠ 0#32) := by decide

theorem witness_MapLookupCommand :
    (base.cmdReady = true ∧ base.phase = .unconfigured) ∧
    (loaded.cmdReady = true ∧ loaded.phase = .idle ∧ loaded.width.toNat * loaded.height.toNat ≤ (4#24).toNat) ∧
    (loaded.cmdReady = true ∧ loaded.phase = .idle ∧ (3#24).toNat < loaded.width.toNat * loaded.height.toNat) ∧
    ((ask loaded (encode (.mapLookup 3#24))).agenda = .move .command :: [] ∧
      (ask loaded (encode (.mapLookup 3#24))).offered = encode (.mapLookup 3#24) :: [] ∧
      (ask loaded (encode (.mapLookup 3#24))).rspValid = false) ∧
    (ask faulted (encode (.mapLookup 3#24))).phase = .fault ∧
    (opcodeOf 0x51000000#32 = 0x5#4 ∧ 0x51000000#32 &&& 0x0F000000#32 ≠ 0#32) := by decide

/-- A byte inside the frame, its last byte, and a block whose sink holds back. -/
theorem witness_EmissionStep :
    ((turn .emit (busyAt 0#27)).agenda = .move .emit :: [] ∧ (busyAt 0#27).phase = .busy ∧
      (busyAt 0#27).encPos.toNat / 8 < 2 * 2 ∧ FrameMem.read w1Frame ((amap 2 0).2 * 2 + (amap 2 0).1) = some 0xFF0000#24 ∧
      (busyAt 0#27).encPos.toNat + 1 ≠ 8 * (2 * 2)) ∧
    ((busyAt 31#27).encPos.toNat / 8 < 2 * 2 ∧
      FrameMem.read w1Frame ((amap 2 (31 / 8)).2 * 2 + (amap 2 (31 / 8)).1) = some 0x0000FF#24 ∧
      (busyAt 31#27).encPos.toNat + 1 = 8 * (2 * 2)) ∧
    (busyAt 0#27).agenda = [] ∧ (turn .command (busyAt 0#27)).agenda = .move .command :: [] ∧
    (cycle ⟨false, false, false⟩ (busyAt 0#27)).agenda = .cycle ⟨false, false, false⟩ :: [] := by decide

/-- Two states that no run reaches: BUSY with the whole frame emitted, and BUSY with an empty frame memory. -/
theorem witness_EmissionStopsWithoutElement :
    ((turn .emit (busyAt 32#27)).agenda = .move .emit :: [] ∧ (busyAt 32#27).phase = .busy ∧
      2 * 2 ≤ (busyAt 32#27).encPos.toNat / 8) ∧
    ((busyAt 31#27).encPos.toNat / 8 < 2 * 2 ∧ FrameMem.read [] (ridx 2 (31 / 8)) = none) := by decide

theorem witness_ResponseSlot :
    ((turn .take answered).agenda = .move .take :: [] ∧ (turn .take answered).rspValid = true) ∧
    ((turn .take base).agenda = .move .take :: [] ∧ (turn .take base).rspValid = false) ∧
    ((ask answered 0x20000000#32).agenda = .move .command :: [] ∧ (ask answered 0x20000000#32).rspValid = true) ∧
    (base.cmdReady = true ∧ exec (.cbLookup 0#2 0xFF#8 2#3) base = .next (respond 0x5A#32 base) ∧
      (respond 0x5A#32 base).phase ≠ .fault) ∧
    (loaded.cmdReady = true ∧ exec (.mapLookup 3#24) loaded = .next (respond (coordResponse (0, 1)) loaded) ∧
      (respond (coordResponse (0, 1)) loaded).phase ≠ .fault) ∧
    (step (turn .sinkError answered) = .next (sinkFails answered) ∧ answered.phase ≠ .fault ∧
      (sinkFails answered).phase = .fault) :=
  ⟨by decide, by decide, by decide, ⟨by decide, rfl, by decide⟩, ⟨by decide, rfl, by decide⟩, rfl, by decide, by decide⟩

theorem witness_SinkErrorStep :
    ((turn .sinkError (busyAt 20#27)).agenda = .move .sinkError :: [] ∧ (busyAt 20#27).phase ≠ .fault) ∧
    ((turn .sinkError faulted).agenda = .move .sinkError :: [] ∧ faulted.phase = .fault) := by decide

theorem witness_ResetStep : (turn .reset (busyAt 10#27)).agenda = .move .reset :: [] := rfl

theorem witness_ResetKeepsOfferedAndSentBytes : (turn .reset answered).agenda = .move .reset :: [] := rfl

/-- In FAULT: a sink error that does nothing, a response taken, and a reset. -/
theorem witness_FaultIsQuiescent :
    (faulted.phase = .fault ∧ step (turn .sinkError faulted) = .next faulted) ∧
    step (turn .take { faulted with rspValid := true }) = .next (takeResponse { faulted with rspValid := true }) ∧
    step (turn .reset faulted) = .next (resetBlock faulted) :=
  ⟨⟨rfl, rfl⟩, rfl, rfl⟩

theorem witness_FaultEntryIsPrecise :
    (step (turn .sinkError (busyAt 20#27)) = .next (sinkFails (busyAt 20#27)) ∧ (busyAt 20#27).phase ≠ .fault ∧
      (sinkFails (busyAt 20#27)).phase = .fault) ∧
    (step (ask base 0x30000000#32) = .next (faultCommand .notConfigured .encode base) ∧ base.phase ≠ .fault ∧
      (faultCommand .notConfigured .encode base).phase = .fault) :=
  ⟨⟨rfl, by decide, rfl⟩, rfl, by decide, rfl⟩

/-- One step for each transition of R16. -/
theorem witness_PhaseTransitions :
    (step (ask base 0x10002002#32) = .next (bindDimensions 2#12 2#12 base) ∧
      (bindDimensions 2#12 2#12 base).phase ≠ base.phase) ∧
    (step (ask loaded 0x30000000#32) = .next (beginFrame loaded) ∧ (beginFrame loaded).phase ≠ loaded.phase) ∧
    (step (turn .emit (busyAt 31#27)) = .next (finishFrame (emitByte 0x12#8 (busyAt 31#27))) ∧
      (finishFrame (emitByte 0x12#8 (busyAt 31#27))).phase ≠ (busyAt 31#27).phase) ∧
    (step (turn .sinkError base) = .next (sinkFails base) ∧ (sinkFails base).phase ≠ base.phase) ∧
    (step (turn .reset faulted) = .next (resetBlock faulted) ∧ (resetBlock faulted).phase ≠ faulted.phase) :=
  ⟨⟨rfl, by decide⟩, ⟨rfl, by decide⟩, ⟨rfl, by decide⟩, ⟨rfl, by decide⟩, rfl, by decide⟩

theorem witness_CommandsAcceptedInOrder :
    step (ask base 0x10002002#32) = .next (bindDimensions 2#12 2#12 base) ∧ step base = .next base := ⟨rfl, rfl⟩

theorem witness_TakeCommutes :
    ({ busyAt 31#27 with rspValid := true } : State).rspValid = true ∧ (Move.emit = .emit ∨ Move.emit = .sinkError) ∧
    (Move.sinkError = .emit ∨ Move.sinkError = .sinkError) := by decide

theorem witness_DimensionsFixedForSession :
    (step (ask base 0x10002002#32) = .next (bindDimensions 2#12 2#12 base) ∧
      (bindDimensions 2#12 2#12 base).width ≠ base.width) ∧
    (step (turn .reset loaded) = .next (resetBlock loaded) ∧ (resetBlock loaded).height ≠ loaded.height) :=
  ⟨⟨rfl, by decide⟩, rfl, by decide⟩

theorem witness_FrameCountCountsFrames :
    step (turn .emit (busyAt 30#27)) = .next (emitByte 0x12#8 (busyAt 30#27)) ∧
    step (turn .emit (busyAt 31#27)) = .next (finishFrame (emitByte 0x12#8 (busyAt 31#27))) ∧
    step (turn .reset loaded) = .next (resetBlock loaded) := ⟨rfl, rfl, rfl⟩

theorem witness_OutGrowsByEmissionOnly :
    step base = .next base ∧ step (ask loaded 0x30000000#32) = .next (beginFrame loaded) ∧
    step (turn .emit (busyAt 0#27)) = .next (emitByte 0x5B#8 (busyAt 0#27)) ∧
    step (turn .reset loaded) = .next (resetBlock loaded) := ⟨rfl, rfl, rfl, rfl⟩

theorem witness_OnlyPixelWritesFrameMemory :
    step (turn .emit (busyAt 0#27)) = .next (emitByte 0x5B#8 (busyAt 0#27)) ∧
    step (ask (idleAt 2#12 2#12 0#24 []) 0x20FF0000#32) =
      .next (storePixel 0xFF0000#24 (idleAt 2#12 2#12 0#24 [])) ∧
    step (turn .reset loaded) = .next (resetBlock loaded) := ⟨rfl, rfl, rfl⟩

/-- The loaded, IDLE state meets `Inv`. -/
theorem loaded_inv : Inv loaded where
  capacity_range := by decide
  err_iff_fault := by decide
  info_zero := by decide
  unconfigured_zero := by decide
  configured_nonzero := by decide
  frame_fits := by decide
  wrPtr_le := by decide
  encPos_le := by decide
  busy_loaded := by decide
  loaded_written := by decide
  fm_canonical := by decide
  fm_inside := by
    intro i h
    have h : 4 ≤ i := h
    simp only [loaded, idleAt, w1Frame, FrameMem.read]
    repeat rw [if_neg (by omega)]
  out_symbols := by decide

/-- The same state with a different agenda or other words offered meets it too: no clause reads those fields. -/
theorem inv_of_block {s : State} (h : Inv s) (ag : List Turn) (ws : List Word) :
    Inv { s with agenda := ag, offered := ws } :=
  ⟨h.1, h.2, h.3, h.4, h.5, h.6, h.7, h.8, h.9, h.10, h.11, h.12, h.13⟩

theorem witness_StepKeepsInv : Inv (ask loaded 0x30000000#32) ∧ step (ask loaded 0x30000000#32) = .next (beginFrame loaded) :=
  ⟨inv_of_block loaded_inv _ _, rfl⟩

theorem witness_ResetMeetsInv : 1 ≤ 16777215 ∧ 16777215 ≤ 2 ^ 24 - 1 := by decide

theorem witness_MachineNeverStops : Inv (ask loaded 0x20000000#32) := inv_of_block loaded_inv _ _

theorem witness_StepKeepsWholeFrames :
    Inv (ask loaded 0x30000000#32) ∧ WholeFrames (ask loaded 0x30000000#32) ∧
    step (ask loaded 0x30000000#32) = .next (beginFrame loaded) :=
  ⟨inv_of_block loaded_inv _ _, ⟨0, rfl, rfl⟩, rfl⟩

/-- W1's frame, ENCODE offered, and thirty-two emission turns. -/
def frameRun : State :=
  { loaded with offered := [0x30000000#32], agenda := .move .command :: (List.replicate 32 (Turn.move .emit) ++ []) }

theorem witness_FrameFunction :
    Inv frameRun ∧ frameRun.phase = .idle ∧ frameRun.rspValid = false ∧
    frameRun.wrPtr.toNat = frameRun.width.toNat * frameRun.height.toNat ∧ frameRun.offered = 0x30000000#32 :: [] ∧
    frameRun.agenda = .move .command ::
      (List.replicate (8 * (frameRun.width.toNat * frameRun.height.toNat)) (Turn.move .emit) ++ []) :=
  ⟨inv_of_block loaded_inv _ _, rfl, rfl, rfl, rfl, rfl⟩

/-- Two BUSY blocks that differ in FRAME_COUNT, OUT and an element outside the frame. -/
def otherBusy : State :=
  { busyAt 18#27 with frameCount := 7#32, out := [0x5B#8], fm := w1Frame ++ [(9, 1#24)] }

theorem witness_OutputDependsOnFrameOnly :
    (busyAt 18#27).phase = .busy ∧ otherBusy.phase = .busy ∧ (busyAt 18#27).width = otherBusy.width ∧
    (busyAt 18#27).height = otherBusy.height ∧ (busyAt 18#27).encPos = otherBusy.encPos ∧
    (∀ i, i < (busyAt 18#27).width.toNat * (busyAt 18#27).height.toNat →
      FrameMem.read (busyAt 18#27).fm i = FrameMem.read otherBusy.fm i) := by decide

theorem witness_CodebookIndependentOfState :
    2#2 ≠ 3#2 ∧ exec (.cbLookup 2#2 0xA5#8 7#3) base = .next (respond 0x1A#32 base) ∧
    exec (.cbLookup 2#2 0xA5#8 7#3) loaded = .next (respond 0x1A#32 loaded) := ⟨by decide, rfl, rfl⟩

/-- A state for each end; and BUSY with an emission to come, a response with its take to come, and a command offered
have not ended. -/
theorem witness_EndOfRun :
    endKind faulted = some .faulted ∧ endKind loaded = some .complete ∧
    (endKind (busyAt 0#27) = some .stuck ∧ NothingComes (busyAt 0#27) ∧ (busyAt 0#27).phase ≠ .fault) ∧
    (endKind (turn .command answered) = some .stuck ∧ NothingComes (turn .command answered)) ∧
    ((turn .emit (busyAt 0#27)).phase = .busy ∧ Turn.move .emit ∈ (turn .emit (busyAt 0#27)).agenda) ∧
    ((turn .take answered).rspValid = true ∧ (turn .take answered).phase ≠ .fault ∧
      Turn.move .take ∈ (turn .take answered).agenda) ∧
    enabled .command (ask base 0#32) = true := by decide

theorem witness_PixelBytesDetermineWord :
    encodePacked 0x341256#24 = encodePacked (pack 0x12#8 0x34#8 0x56#8) ∧
    (encodePacked 0xFFFFFF#24).map linkPayload = (encodePacked (pack 0xFF#8 0xFF#8 0xFF#8)).map linkPayload := by decide

theorem witness_LinkLosesNothing :
    (∀ b ∈ [0x5B#8, 0x12#8], b ∈ symbolBytes) ∧ (∀ b ∈ [sym 0#3, sym 7#3], b ∈ symbolBytes) ∧
    lineOf .inverted [0x5B#8, 0x12#8] = lineOf .inverted [sym 0#3, sym 7#3] := by decide

theorem witness_ChannelSlotOccupancy :
    3 ≤ (3#3).toNat ∧ ((1#3).toNat < 2 ∨ 5 < (1#3).toNat) ∧ ((6#3).toNat < 2 ∨ 5 < (6#3).toNat) ∧
    (4#3).toNat < 5 := by decide

theorem witness_SerpentineMap :
    5 < 2 * 3 ∧ (1 < 2 ∧ 2 < 3) ∧ (1 < 2 ∧ 2 % 2 = 0) ∧ (1 < 2 ∧ 1 % 2 = 1) ∧ 2 < 3 * 1 ∧ (2 ≤ 2 ∧ 2 ≤ 2) := by decide

theorem witness_RasterIndexClosedForm : (5 < 3 * 2 ∧ (5 / 3) % 2 = 1) ∧ (2 < 3 * 2 ∧ (2 / 3) % 2 = 0) := by decide

/-- The floor is a legal QUANT_ROUND, and the boundary inputs. -/
theorem witness_QuantizerClamps : LegalRound Int.floor ∧ (0 : ℝ) ≤ 0 ∧ (1 : ℝ) ≤ 1 :=
  ⟨⟨fun _ _ h => Int.floor_le_floor h, fun n => Int.floor_intCast n⟩, le_refl _, le_refl _⟩

/-- A 1 × 1 block, configured and with no pixel loaded. -/
def tiny : State := idleAt 1#12 1#12 0#24 []

/-- A source whose one frame is one black pixel, shipped with no wait, cost or oversleep. -/
def oneFrame : ContentSource := fun k =>
  if k = 0 then some { timed 10 0 with pixels := [0#24], turns := frameTurns } else none
where
  /-- The turns that load and emit it. -/
  frameTurns : List Turn := List.replicate 2 (.move .command) ++ List.replicate 8 (.move .emit)

/-- One pass, the exhausted source, the frame's start, a source with no waits, and W7's overrun. -/
theorem witness_PacerDeadlines :
    (pacerRun oneFrame 1 5 tiny).ended = .running ∧ (pacerRun oneFrame 2 5 tiny).ended = .exhausted ∧
    (pacerRun oneFrame 1 5 tiny).starts[0]? = some 5 ∧
    (oneFrame 0).map (fun item => (item.wait, item.cost, item.overSleep)) = some (0, 0, 0) ∧
    ((timed 10 25).overSleep = 0 ∧
      (pacerStart 0).nextDeadline + (timed 10 25).delay ≤ frameStart (timed 10 25) (pacerStart 0) + (timed 10 25).cost) := by
  decide

theorem tiny_inv : Inv tiny where
  capacity_range := by decide
  err_iff_fault := by decide
  info_zero := by decide
  unconfigured_zero := by decide
  configured_nonzero := by decide
  frame_fits := by decide
  wrPtr_le := by decide
  encPos_le := by decide
  busy_loaded := by decide
  loaded_written := by decide
  fm_canonical := by decide
  fm_inside := fun _ _ => rfl
  out_symbols := by decide

/-- A frame of N pixels, one of none, and one of two, for a block with N = 1. -/
theorem witness_PacedFrameTransmitted :
    Inv tiny ∧ tiny.phase = .idle ∧ tiny.rspValid = false ∧ tiny.wrPtr = 0#24 ∧ tiny.offered = [] ∧
    [0#24].length = tiny.width.toNat * tiny.height.toNat ∧
    ([] : List Pixel).length < tiny.width.toNat * tiny.height.toNat ∧
    tiny.width.toNat * tiny.height.toNat < [0#24, 1#24].length :=
  ⟨tiny_inv, rfl, rfl, rfl, rfl, by decide, by decide, by decide⟩

/-- A line for each clause, at the ends of the fields' ranges. -/
theorem witness_AssemblerExpandsExactly :
    (assembleFrom none (.config 4095 1 :: []) = some [.command (.config 4095#12 1#12)]) ∧ 4096 ≤ 4096 ∧
    (assembleFrom none (.pixel 255 0 1 :: []) = some [.command (.pixel 255#8 0#8 1#8)]) ∧
    (assembleFrom none (.cbLookup 3 255 7 :: []) = some [.command (.cbLookup 3#2 255#8 7#3)]) ∧
    (assembleFrom none (.mapLookup 16777215 :: []) = some [.command (.mapLookup 16777215#24)]) ∧
    (255 < 256 ∧ 0 < 256 ∧ 1 < 256) ∧ some 1 = some [(1, 2, 3)].length ∧ none ≠ some [(1, 2, 3)].length := by decide

end Sys2Proof.Tests
end

/-! PROOFS of the statements about the block's state (10_state.md), after the lemmas they share: the decoder's inverse,
the level outputs and the register words, and what a command and an emission step can do to PHASE and FRAME_COUNT. -/

namespace Sys2Proof.Proofs

open Sys2Proof.Machine Sys2Proof.Safety Host.Outcome

/-! The decoder: a legal word is its fields one after another, so encoding what it decodes to gives it back (R59). -/

/-- A command passes the reserved mask exactly when no masked bit of the word is 1 (R58). -/
theorem legalIf_eq_ok {w rsv : Word} {i j : Instr} : legalIf w rsv i = .ok j ↔ w &&& rsv = 0#32 ∧ i = j := by
  unfold legalIf
  split <;> simp_all

/-- A field that lies under the reserved mask is 0 in a word that the mask clears. -/
theorem extractLsb'_eq_zero_of_and_eq_zero {w rsv : Word} {start len : Nat} (hw : w &&& rsv = 0#32)
    (hm : rsv.extractLsb' start len = BitVec.allOnes len) : w.extractLsb' start len = 0#len := by
  have h := congrArg (BitVec.extractLsb' start len) hw
  simpa [BitVec.extractLsb'_and, hm] using h

/-- Everything `decode` accepts, opcode by opcode (R57, R58, R59). -/
theorem decode_ok_cases {w : Word} {i : Instr} (h : decode w = .ok i) :
    (opcodeOf w = 1#4 ∧ w &&& 0x0F000000#32 = 0#32 ∧ i = .config (w.extractLsb' 12 12) (w.extractLsb' 0 12)) ∨
    (opcodeOf w = 2#4 ∧ w &&& 0x0F000000#32 = 0#32 ∧
      i = .pixel (w.extractLsb' 16 8) (w.extractLsb' 8 8) (w.extractLsb' 0 8)) ∨
    (opcodeOf w = 3#4 ∧ w &&& 0x0FFFFFFF#32 = 0#32 ∧ i = .encode) ∨
    (opcodeOf w = 4#4 ∧ w &&& 0x0FFC00F8#32 = 0#32 ∧
      i = .cbLookup (w.extractLsb' 16 2) (w.extractLsb' 8 8) (w.extractLsb' 0 3)) ∨
    (opcodeOf w = 5#4 ∧ w &&& 0x0F000000#32 = 0#32 ∧ i = .mapLookup (w.extractLsb' 0 24)) := by
  unfold decode at h
  split at h
  case h_6 => cases h
  all_goals
    obtain ⟨hw, rfl⟩ := legalIf_eq_ok.mp h
    rename_i hop
    simp [← BitVec.toNat_inj, hop, hw]

/-- R59: a legal word is the encoding of the command it decodes to. -/
theorem encode_of_decode_ok {w : Word} {i : Instr} (h : decode w = .ok i) : encode i = w := by
  obtain ⟨hop, hw, rfl⟩ | ⟨hop, hw, rfl⟩ | ⟨hop, hw, rfl⟩ | ⟨hop, hw, rfl⟩ | ⟨hop, hw, rfl⟩ := decode_ok_cases h
  case inr.inr.inl =>
    have hr : w.extractLsb' 0 28 = 0#28 := extractLsb'_eq_zero_of_and_eq_zero hw rfl
    rw [encode, ← hop, ← hr, opcodeOf]
    exact BitVec.extractLsb'_append_extractLsb'
  case inr.inr.inr.inl =>
    have hr : w.extractLsb' 18 10 = 0#10 := extractLsb'_eq_zero_of_and_eq_zero hw rfl
    have hr' : w.extractLsb' 3 5 = 0#5 := extractLsb'_eq_zero_of_and_eq_zero hw rfl
    rw [encode, ← hop, ← hr, ← hr', opcodeOf]
    simp only [BitVec.extractLsb'_append_extractLsb'_eq_extractLsb']
    exact BitVec.extractLsb'_eq_self
  -- CONFIG, PIXEL and MAP_LOOKUP reserve bits 27:24 alone.
  all_goals
    have hr : w.extractLsb' 24 4 = 0#4 := extractLsb'_eq_zero_of_and_eq_zero hw rfl
    rw [encode, ← hop, ← hr, opcodeOf]
    simp only [BitVec.extractLsb'_append_extractLsb'_eq_extractLsb']
    exact BitVec.extractLsb'_eq_self

/-! The level outputs (R17) and the register port (R18 to R26). -/

theorem busy_iff {s : State} : s.busy = true ↔ s.phase = .busy := decide_eq_true_iff

theorem faulted_iff {s : State} : s.faulted = true ↔ s.phase = .fault := decide_eq_true_iff

theorem outValid_iff {s : State} : s.outValid = true ↔ s.phase = .busy := decide_eq_true_iff

theorem cmdReady_iff {s : State} :
    s.cmdReady = true ↔ (s.phase = .unconfigured ∨ s.phase = .idle) ∧ s.rspValid = false := by
  simp [State.cmdReady]

/-- A command accepted outside UNCONFIGURED is accepted in IDLE. -/
theorem phase_idle_of_cmdReady {s : State} (h : s.cmdReady = true) (hp : s.phase ≠ .unconfigured) : s.phase = .idle :=
  (cmdReady_iff.mp h).1.resolve_left hp

/-- No command is accepted while BUSY. -/
theorem phase_ne_busy_of_cmdReady {s : State} (h : s.cmdReady = true) : s.phase ≠ .busy := by
  obtain ⟨hp | hp, -⟩ := cmdReady_iff.mp h <;> simp [hp]

/-- While BUSY, `out_data` shows the next byte where there is one (R39, R86). -/
theorem outData_of_nextByte {s : State} {b : Byte} (hp : s.phase = .busy) (hb : nextByte s = .ok b) :
    s.outData = some b := by
  simp [State.outData, State.outValid, hp, hb]

/-- A field above the low part of a concatenation is read from the high part. -/
theorem extractLsb'_append_of_high {m n start len : Nat} {hi : BitVec m} {lo : BitVec n} {x : BitVec len}
    (hn : n ≤ start) (h : hi.extractLsb' (start - n) len = x) : (hi ++ lo).extractLsb' start len = x :=
  (BitVec.extractLsb'_append_eq_of_le hn).trans h

theorem statusWord_phase (s : State) : (statusWord s).extractLsb 1 0 = s.phase.code :=
  BitVec.extractLsb'_append_eq_right

theorem statusWord_rspValid (s : State) : (statusWord s).getLsbD 2 = s.rspValid := by
  rw [statusWord]
  simp only [BitVec.getLsbD_append]
  simp

theorem statusWord_bit3 (s : State) : (statusWord s).getLsbD 3 = false := by
  rw [statusWord]
  simp only [BitVec.getLsbD_append]
  simp

theorem statusWord_err (s : State) : (statusWord s).extractLsb 7 4 = s.err.code :=
  extractLsb'_append_of_high (by decide) <| extractLsb'_append_of_high (by decide) <|
    extractLsb'_append_of_high (by decide) BitVec.extractLsb'_append_eq_right

theorem statusWord_reserved (s : State) : (statusWord s).extractLsb 31 8 = 0#24 :=
  extractLsb'_append_of_high (by decide) <| extractLsb'_append_of_high (by decide) <|
    extractLsb'_append_of_high (by decide) BitVec.extractLsb'_append_eq_left

theorem dimsWord_width (s : State) : (dimsWord s).extractLsb 23 12 = s.width :=
  extractLsb'_append_of_high (by decide) BitVec.extractLsb'_append_eq_right

theorem dimsWord_height (s : State) : (dimsWord s).extractLsb 11 0 = s.height := BitVec.extractLsb'_append_eq_right

theorem dimsWord_reserved (s : State) : (dimsWord s).extractLsb 31 24 = 0#8 :=
  extractLsb'_append_of_high (by decide) BitVec.extractLsb'_append_eq_left

/-! What a command and an emission step can do to PHASE and FRAME_COUNT. -/

/-- A command leaves PHASE alone, or faults, or is CONFIG in UNCONFIGURED, or is ENCODE once configured (R16). -/
theorem exec_next_phase {i : Instr} {s t : State} (e : exec i s = next t) :
    t.phase = s.phase ∨ (t.phase = .fault ∧ t.err ≠ .noFault) ∨
    (s.phase = .unconfigured ∧ t.phase = .idle ∧ ∃ w h, i = .config w h) ∨
    (s.phase ≠ .unconfigured ∧ t.phase = .busy ∧ i = .encode) := by
  obtain ⟨code, hc, -, -, rfl⟩ | ⟨w, h, hi, hp, -, -, -, rfl⟩ | ⟨r, g, b, -, -, -, -, rfl⟩ | ⟨hi, hp, -, rfl⟩ |
    ⟨w, -, rfl⟩ := exec_next e
  · exact .inr (.inl ⟨rfl, hc⟩)
  · exact .inr (.inr (.inl ⟨hp, rfl, w, h, hi⟩))
  · exact .inl rfl
  · exact .inr (.inr (.inr ⟨hp, rfl, hi⟩))
  · exact .inl rfl

/-- No command writes FRAME_COUNT (R22). -/
theorem exec_next_frameCount {i : Instr} {s t : State} (e : exec i s = next t) : t.frameCount = s.frameCount := by
  obtain ⟨_, -, -, -, rfl⟩ | ⟨_, _, -, -, -, -, -, rfl⟩ | ⟨_, _, _, -, -, -, -, rfl⟩ | ⟨-, -, -, rfl⟩ | ⟨_, -, rfl⟩ :=
    exec_next e <;> rfl

/-- An emission step finishes the frame exactly when it brings ENC_POS to 8 x W x H (R86). -/
theorem closeFrame_emitByte_cases (b : Byte) (s : State) :
    ((s.encPos + 1#27).toNat = 8 * (s.width.toNat * s.height.toNat) ∧
      closeFrame (emitByte b s) = finishFrame (emitByte b s)) ∨
    closeFrame (emitByte b s) = emitByte b s :=
  (closeFrame_cases (emitByte b s)).imp id And.right

/-- An emission step adds one byte at the end of OUT, whether or not it finishes the frame (R39). -/
theorem closeFrame_emitByte_out (b : Byte) (s : State) : (closeFrame (emitByte b s)).out = s.out ++ [b] := by
  obtain ⟨-, h⟩ | h := closeFrame_emitByte_cases b s <;> rw [h] <;> rfl

/-- What a step with the emission's turn does while BUSY, when it does not stop (R86). -/
theorem step_emit_next {s t : State} {ts : List Turn} (ha : s.agenda = .move .emit :: ts) (hp : s.phase = .busy)
    (e : step s = next t) : ∃ b, nextByte s = .ok b ∧ t = closeFrame (emitByte b { s with agenda := ts }) := by
  have hm : moveOf (.move .emit) { s with agenda := ts } = some .emit := if_pos (outValid_iff.mpr hp)
  simp only [step, ha, runTurn, hm] at e
  exact emitStep_next e

/-! The statements. -/

/-- Settles O25, by the cases of a step: only CONFIG, ENCODE, a frame's last emission, a fault and a reset write
PHASE. -/
theorem phaseTransitions : Obligations.PhaseTransitions := by
  refine ⟨⟨rfl, rfl, rfl, rfl⟩, fun s t e hne => ?_⟩
  obtain ⟨ag, rfl⟩ | ⟨ag, w, ws, -, -, -, rfl⟩ | ⟨ag, w, ws, i, hr, ho, hd, hx⟩ | ⟨ag, -, -, rfl⟩ |
    ⟨ag, b, hp, -, rfl⟩ | ⟨ag, hp, rfl⟩ | ⟨ag, hreset, rfl⟩ := step_cases e
  · exact absurd rfl hne
  · exact .inr (.inr (.inr (.inl ⟨hne.symm, rfl, by simp⟩)))
  · have ho : s.offered = encode i :: ws := by rw [ho, encode_of_decode_ok hd]
    obtain hsame | ⟨hf, herr⟩ | ⟨hu, hi, w, h, rfl⟩ | ⟨hu, hb, rfl⟩ := exec_next_phase hx
    · exact absurd hsame hne
    · exact .inr (.inr (.inr (.inl ⟨hf ▸ hne.symm, hf, herr⟩)))
    · exact .inl ⟨hu, hi, w, h, ws, ho⟩
    · exact .inr (.inl ⟨phase_idle_of_cmdReady hr hu, hb, ws, ho⟩)
  · exact absurd rfl hne
  · obtain ⟨hend, h⟩ | h := closeFrame_emitByte_cases b { s with agenda := ag }
    · exact .inr (.inr (.inl ⟨hp, by rw [h]; rfl, hend⟩))
    · exact absurd (by rw [h]; rfl) hne
  · exact .inr (.inr (.inr (.inl ⟨hp, rfl, by simp⟩)))
  · exact .inr (.inr (.inr (.inr ⟨rfl, ag, hreset⟩)))

/-- Settles O29, by the cases of a step: only a frame's last emission and a reset write FRAME_COUNT. -/
theorem frameCountCountsFrames : Obligations.FrameCountCountsFrames := by
  intro s t e
  obtain ⟨ag, rfl⟩ | ⟨ag, w, ws, -, -, -, rfl⟩ | ⟨ag, w, ws, i, hr, -, -, hx⟩ | ⟨ag, -, -, rfl⟩ |
    ⟨ag, b, hp, -, rfl⟩ | ⟨ag, -, rfl⟩ | ⟨ag, hreset, rfl⟩ := step_cases e
  · exact .inl ⟨rfl, fun ⟨hb, hi⟩ => by simp [hb] at hi⟩
  · exact .inl ⟨rfl, fun ⟨_, hi⟩ => by simp at hi⟩
  · exact .inl ⟨(exec_next_frameCount hx :), fun ⟨hb, _⟩ => phase_ne_busy_of_cmdReady hr hb⟩
  · exact .inl ⟨rfl, fun ⟨hb, hi⟩ => by simp [hb] at hi⟩
  · obtain ⟨hend, h⟩ | h := closeFrame_emitByte_cases b { s with agenda := ag }
    · exact .inr (.inl ⟨hp, by rw [h]; rfl, hend, by rw [h]; rfl⟩)
    · exact .inl ⟨by rw [h]; rfl, fun ⟨_, hi⟩ => by rw [h] at hi; simp [hp] at hi⟩
  · exact .inl ⟨rfl, fun ⟨_, hi⟩ => by simp at hi⟩
  · exact .inr (.inr ⟨rfl, ag, hreset⟩)

/-- Settles O10: the level outputs by their definitions, and `out_data` by the emission step that reads the same byte. -/
theorem levelOutputs : Obligations.LevelOutputs := by
  refine ⟨fun s => ⟨busy_iff, faulted_iff, cmdReady_iff, outValid_iff, statusWord_rspValid s⟩, fun s t ts ha hp e => ?_⟩
  obtain ⟨b, hb, rfl⟩ := step_emit_next ha hp e
  exact ⟨b, outData_of_nextByte hp hb, closeFrame_emitByte_out b _⟩

/-- Settles O11: each register's word is its fields one after another, and a read of a field finds that field. -/
theorem registerPortLayout : Obligations.RegisterPortLayout := by
  intro s
  have hwrPtr : readRegister 2#3 s = 0#8 ++ s.wrPtr := rfl
  have hencPos : readRegister 4#3 s = 0#5 ++ s.encPos := rfl
  exact ⟨statusWord_phase s, statusWord_rspValid s, statusWord_bit3 s, statusWord_err s, statusWord_reserved s,
    dimsWord_width s, dimsWord_height s, dimsWord_reserved s,
    hwrPtr ▸ BitVec.extractLsb'_append_eq_right, hwrPtr ▸ BitVec.extractLsb'_append_eq_left, rfl,
    hencPos ▸ BitVec.extractLsb'_append_eq_right, hencPos ▸ BitVec.extractLsb'_append_eq_left, rfl, rfl, rfl⟩

end Sys2Proof.Proofs

/-! PROOFS of the statements about the encoding (30_encoding.md), after the decoder's equation for each opcode, the
inverse of `encode` and the step of a command turn. -/

namespace Sys2Proof.Proofs

open Sys2Proof.Machine Sys2Proof.Safety Host.Outcome

/-! The decoder, opcode by opcode (R57, R59). -/

/-- The statements read OP as bits 31:28, as R55 writes it. -/
theorem extractLsb_opcode (w : Word) : w.extractLsb 31 28 = opcodeOf w := rfl

theorem decode_of_opcode_config {w : Word} (h : opcodeOf w = 0x1#4) :
    decode w = legalIf w 0x0F000000#32 (.config (w.extractLsb' 12 12) (w.extractLsb' 0 12)) := by
  rw [decode, h]; rfl

theorem decode_of_opcode_pixel {w : Word} (h : opcodeOf w = 0x2#4) :
    decode w = legalIf w 0x0F000000#32 (.pixel (w.extractLsb' 16 8) (w.extractLsb' 8 8) (w.extractLsb' 0 8)) := by
  rw [decode, h]; rfl

theorem decode_of_opcode_encode {w : Word} (h : opcodeOf w = 0x3#4) : decode w = legalIf w 0x0FFFFFFF#32 .encode := by
  rw [decode, h]; rfl

theorem decode_of_opcode_cbLookup {w : Word} (h : opcodeOf w = 0x4#4) :
    decode w = legalIf w 0x0FFC00F8#32 (.cbLookup (w.extractLsb' 16 2) (w.extractLsb' 8 8) (w.extractLsb' 0 3)) := by
  rw [decode, h]; rfl

theorem decode_of_opcode_mapLookup {w : Word} (h : opcodeOf w = 0x5#4) :
    decode w = legalIf w 0x0F000000#32 (.mapLookup (w.extractLsb' 0 24)) := by
  rw [decode, h]; rfl

/-- The opcode map of R57: the two reserved ranges, and the five commands. -/
theorem opcode_cases (op : BitVec 4) :
    (op = 0x0#4 ∨ 0x6#4 ≤ op) ∨ op = 0x1#4 ∨ op = 0x2#4 ∨ op = 0x3#4 ∨ op = 0x4#4 ∨ op = 0x5#4 := by
  decide +revert

/-- A reserved opcode decodes to no command (R58). -/
theorem decode_of_opcode_reserved {w : Word} (h : opcodeOf w = 0x0#4 ∨ 0x6#4 ≤ opcodeOf w) :
    decode w = .error .reservedOpcode := by
  unfold decode
  split
  case h_6 => rfl
  all_goals bv_omega

/-- A command is rejected for its reserved bits exactly when one of them is 1 (R58). -/
theorem exists_legalIf_eq_error_iff {w rsv : Word} {i : Instr} :
    (∃ r, legalIf w rsv i = .error r) ↔ w &&& rsv ≠ 0#32 := by
  unfold legalIf
  split <;> simp_all

/-- R58's definition of an illegal word: the opcode is reserved, or a bit of the opcode's mask is 1. -/
theorem exists_decode_eq_error_iff {w : Word} :
    (∃ r, decode w = .error r) ↔
      opcodeOf w = 0x0#4 ∨ 0x6#4 ≤ opcodeOf w ∨
      (opcodeOf w = 0x1#4 ∧ w &&& 0x0F000000#32 ≠ 0#32) ∨
      (opcodeOf w = 0x2#4 ∧ w &&& 0x0F000000#32 ≠ 0#32) ∨
      (opcodeOf w = 0x3#4 ∧ w &&& 0x0FFFFFFF#32 ≠ 0#32) ∨
      (opcodeOf w = 0x4#4 ∧ w &&& 0x0FFC00F8#32 ≠ 0#32) ∨
      (opcodeOf w = 0x5#4 ∧ w &&& 0x0F000000#32 ≠ 0#32) := by
  obtain h | h | h | h | h | h := opcode_cases (opcodeOf w)
  · exact iff_of_true ⟨_, decode_of_opcode_reserved h⟩ (or_assoc.mp (.inl h))
  · rw [decode_of_opcode_config h, exists_legalIf_eq_error_iff, h]; simp
  · rw [decode_of_opcode_pixel h, exists_legalIf_eq_error_iff, h]; simp
  · rw [decode_of_opcode_encode h, exists_legalIf_eq_error_iff, h]; simp
  · rw [decode_of_opcode_cbLookup h, exists_legalIf_eq_error_iff, h]; simp
  · rw [decode_of_opcode_mapLookup h, exists_legalIf_eq_error_iff, h]; simp

/-! The encoder: a command's word has 0 in every reserved bit and holds each field at its own bits (R55, R59). The
masks are written in the command's own format, so that they meet the word field by field. -/

theorem encode_config_reserved (w h : BitVec 12) : encode (.config w h) &&& 0x0F000000#32 = 0#32 := by
  change (0x1#4 ++ 0#4 ++ w ++ h) &&& (0#4 ++ 0xF#4 ++ 0#12 ++ 0#12) = 0#32
  simp only [BitVec.and_append, BitVec.and_zero, BitVec.zero_and]
  rfl

theorem encode_pixel_reserved (r g b : BitVec 8) : encode (.pixel r g b) &&& 0x0F000000#32 = 0#32 := by
  change (0x2#4 ++ 0#4 ++ r ++ g ++ b) &&& (0#4 ++ 0xF#4 ++ 0#8 ++ 0#8 ++ 0#8) = 0#32
  simp only [BitVec.and_append, BitVec.and_zero, BitVec.zero_and]
  rfl

theorem encode_cbLookup_reserved (ch : BitVec 2) (val : BitVec 8) (slot : Slot) :
    encode (.cbLookup ch val slot) &&& 0x0FFC00F8#32 = 0#32 := by
  change (0x4#4 ++ 0#10 ++ ch ++ val ++ 0#5 ++ slot) &&& (0#4 ++ 0x3FF#10 ++ 0#2 ++ 0#8 ++ 0x1F#5 ++ 0#3) = 0#32
  simp only [BitVec.and_append, BitVec.and_zero, BitVec.zero_and]
  rfl

theorem encode_mapLookup_reserved (p : BitVec 24) : encode (.mapLookup p) &&& 0x0F000000#32 = 0#32 := by
  change (0x5#4 ++ 0#4 ++ p) &&& (0#4 ++ 0xF#4 ++ 0#24) = 0#32
  simp only [BitVec.and_append, BitVec.and_zero, BitVec.zero_and]
  rfl

theorem decode_encode_config (w h : BitVec 12) : decode (encode (.config w h)) = .ok (.config w h) := by
  have hop : opcodeOf (encode (.config w h)) = 0x1#4 :=
    extractLsb'_append_of_high (by decide) <| extractLsb'_append_of_high (by decide) BitVec.extractLsb'_append_eq_left
  have hw : (encode (.config w h)).extractLsb' 12 12 = w :=
    extractLsb'_append_of_high (by decide) BitVec.extractLsb'_append_eq_right
  have hh : (encode (.config w h)).extractLsb' 0 12 = h := BitVec.extractLsb'_append_eq_right
  rw [decode_of_opcode_config hop, hw, hh]
  exact legalIf_eq_ok.mpr ⟨encode_config_reserved w h, rfl⟩

theorem decode_encode_pixel (r g b : BitVec 8) : decode (encode (.pixel r g b)) = .ok (.pixel r g b) := by
  have hop : opcodeOf (encode (.pixel r g b)) = 0x2#4 :=
    extractLsb'_append_of_high (by decide) <| extractLsb'_append_of_high (by decide) <|
      extractLsb'_append_of_high (by decide) BitVec.extractLsb'_append_eq_left
  have hr : (encode (.pixel r g b)).extractLsb' 16 8 = r :=
    extractLsb'_append_of_high (by decide) <| extractLsb'_append_of_high (by decide) BitVec.extractLsb'_append_eq_right
  have hg : (encode (.pixel r g b)).extractLsb' 8 8 = g :=
    extractLsb'_append_of_high (by decide) BitVec.extractLsb'_append_eq_right
  have hb : (encode (.pixel r g b)).extractLsb' 0 8 = b := BitVec.extractLsb'_append_eq_right
  rw [decode_of_opcode_pixel hop, hr, hg, hb]
  exact legalIf_eq_ok.mpr ⟨encode_pixel_reserved r g b, rfl⟩

theorem decode_encode_cbLookup (ch : BitVec 2) (val : BitVec 8) (slot : Slot) :
    decode (encode (.cbLookup ch val slot)) = .ok (.cbLookup ch val slot) := by
  have hop : opcodeOf (encode (.cbLookup ch val slot)) = 0x4#4 :=
    extractLsb'_append_of_high (by decide) <| extractLsb'_append_of_high (by decide) <|
      extractLsb'_append_of_high (by decide) <| extractLsb'_append_of_high (by decide) BitVec.extractLsb'_append_eq_left
  have hch : (encode (.cbLookup ch val slot)).extractLsb' 16 2 = ch :=
    extractLsb'_append_of_high (by decide) <| extractLsb'_append_of_high (by decide) <|
      extractLsb'_append_of_high (by decide) BitVec.extractLsb'_append_eq_right
  have hval : (encode (.cbLookup ch val slot)).extractLsb' 8 8 = val :=
    extractLsb'_append_of_high (by decide) <| extractLsb'_append_of_high (by decide) BitVec.extractLsb'_append_eq_right
  have hslot : (encode (.cbLookup ch val slot)).extractLsb' 0 3 = slot := BitVec.extractLsb'_append_eq_right
  rw [decode_of_opcode_cbLookup hop, hch, hval, hslot]
  exact legalIf_eq_ok.mpr ⟨encode_cbLookup_reserved ch val slot, rfl⟩

theorem decode_encode_mapLookup (p : BitVec 24) : decode (encode (.mapLookup p)) = .ok (.mapLookup p) := by
  have hop : opcodeOf (encode (.mapLookup p)) = 0x5#4 :=
    extractLsb'_append_of_high (by decide) BitVec.extractLsb'_append_eq_left
  have hp : (encode (.mapLookup p)).extractLsb' 0 24 = p := BitVec.extractLsb'_append_eq_right
  rw [decode_of_opcode_mapLookup hop, hp]
  exact legalIf_eq_ok.mpr ⟨encode_mapLookup_reserved p, rfl⟩

/-- R59: a command's word decodes to the command, with every field at its value. -/
theorem decode_encode (i : Instr) : decode (encode i) = .ok i := by
  cases i with
  | config w h => exact decode_encode_config w h
  | pixel r g b => exact decode_encode_pixel r g b
  | encode => rfl
  | cbLookup ch val slot => exact decode_encode_cbLookup ch val slot
  | mapLookup p => exact decode_encode_mapLookup p

/-- R59: two words that decode to the same command are equal, for each is that command's encoding. -/
theorem decode_ok_injective {w w' : Word} {i : Instr} (h : decode w = .ok i) (h' : decode w' = .ok i) : w = w' :=
  (encode_of_decode_ok h).symm.trans (encode_of_decode_ok h')

/-! The step of a command turn (R82). -/

/-- With a word offered and the port ready, the HOST's command turn accepts the word. -/
theorem step_command {s : State} {w : Word} {ts : List Turn} {ws : List Word} (ha : s.agenda = .move .command :: ts)
    (ho : s.offered = w :: ws) (hr : s.cmdReady = true) : step s = acceptCommand { s with agenda := ts } := by
  have hen : enabled .command { s with agenda := ts } = true := by
    rw [enabled, State.cmdValid, ho]; exact hr
  have hm : moveOf (.move .command) { s with agenda := ts } = some .command := if_pos hen
  simp only [step, ha, runTurn, hm]
  rfl

/-- Accepting a word that decodes to no command consumes it and enters FAULT (R82, R98). -/
theorem acceptCommand_of_illegal {s : State} {w : Word} {ws : List Word} {r : Illegal} (ho : s.offered = w :: ws)
    (hd : decode w = .error r) : acceptCommand s = .next (rejectIllegal w { s with offered := ws }) := by
  simp only [acceptCommand, fetchWord, ho, hd]

/-! The statements. -/

/-- Settles O3: each legal clause by the decoder's equation for its opcode, the illegal ones by R58's definition, and
the correspondence by the encoder, which inverts the decoder on both sides. -/
theorem decodeByOpcode : Obligations.DecodeByOpcode := by
  refine ⟨fun w hop hw => ?config, fun w hop hw => ?pixel, fun w hop hw => ?encode, fun w hop hw => ?cbLookup,
    fun w hop hw => ?mapLookup, fun w hill => ?illegal, fun w w' i => decode_ok_injective,
    fun i => ⟨encode i, decode_encode i⟩⟩
  case config => exact (decode_of_opcode_config hop).trans (legalIf_eq_ok.mpr ⟨hw, rfl⟩)
  case pixel => exact (decode_of_opcode_pixel hop).trans (legalIf_eq_ok.mpr ⟨hw, rfl⟩)
  case encode => exact (decode_of_opcode_encode hop).trans (legalIf_eq_ok.mpr ⟨hw, rfl⟩)
  case cbLookup => exact (decode_of_opcode_cbLookup hop).trans (legalIf_eq_ok.mpr ⟨hw, rfl⟩)
  case mapLookup => exact (decode_of_opcode_mapLookup hop).trans (legalIf_eq_ok.mpr ⟨hw, rfl⟩)
  case illegal =>
    rw [extractLsb_opcode] at hill
    rw [exists_decode_eq_error_iff]
    tauto

/-- Settles O4: R58's definition of an illegal word, and the command turn that accepts one. -/
theorem illegalWordFaults : Obligations.IllegalWordFaults := by
  refine ⟨fun w => exists_decode_eq_error_iff, fun w r s ts ws hd ha ho hr => ?_⟩
  calc step s
    _ = acceptCommand { s with agenda := ts } := step_command ha ho hr
    _ = .next (rejectIllegal w (Accepted s ts ws)) := acceptCommand_of_illegal ho hd

end Sys2Proof.Proofs

/-! PROOFS of the statements about the codebook (40_codebook.md), after the bits of a group and of a symbol byte, what
OR does to each, the bits of a channel value that a slot carries, and the acceptance of a command's word. -/

namespace Sys2Proof.Proofs

open Sys2Proof.Machine Sys2Proof.Safety Host.Outcome

/-! The packed word (R64). -/

/-- The three channels do not overlap: the packed word is G, R and B one after another. -/
theorem pack_eq_append (r g b : Byte) : pack r g b = g ++ r ++ b := by
  have h : (g ++ r ++ b).setWidth 24 = _ := BitVec.setWidth_append_append_eq_shiftLeft_setWidth_or
  rw [pack, ← h]
  exact BitVec.setWidth_eq _

/-- A pixel's packed word is the OR of its channels' own packed words (R71). -/
theorem pack_eq_or_single (r g b : Byte) : pack r g b = single .red r ||| single .green g ||| single .blue b := by
  simp [single, pack, BitVec.or_comm]

/-! The group of a slot (R65, R66). -/

theorem group_eq_extractLsb' (w : Packed) (s : Slot) : group w s = w.extractLsb' (21 - 3 * s.toNat) 3 :=
  BitVec.setWidth_ushiftRight_eq_extractLsb

theorem group_or (w w' : Packed) (s : Slot) : group (w ||| w') s = group w s ||| group w' s := by
  simp only [group_eq_extractLsb', BitVec.extractLsb'_or]

theorem group_getLsbD {w : Packed} {s : Slot} {i : Nat} (hi : i < 3) :
    (group w s).getLsbD i = w.getLsbD (21 + i - 3 * s.toNat) := by
  have hs : 21 - 3 * s.toNat + i = 21 + i - 3 * s.toNat := by have := s.isLt; omega
  simp [group_eq_extractLsb', hi, hs]

/-! The symbol byte of a group (R67). -/

/-- R67, bit by bit: a symbol byte is `0 ¬b2 0 1 ¬b1 0 1 ¬b0`. -/
theorem sym_bits (g : Group) :
    (sym g).getLsbD 7 = false ∧ (sym g).getLsbD 6 = !g.getLsbD 2 ∧ (sym g).getLsbD 5 = false ∧
    (sym g).getLsbD 4 = true ∧ (sym g).getLsbD 3 = !g.getLsbD 1 ∧ (sym g).getLsbD 2 = false ∧
    (sym g).getLsbD 1 = true ∧ (sym g).getLsbD 0 = !g.getLsbD 0 := by
  revert g; decide

/-- R67's closed form, for the eight groups. -/
theorem sym_closed_form (g : Group) : sym g = 0x12#8 ||| notBit g 0 ||| (notBit g 1 <<< 3) ||| (notBit g 2 <<< 6) := by
  revert g; decide

/-- A symbol byte carries its group's bits negated, so OR of groups is AND of symbol bytes. -/
theorem sym_or (g g' : Group) : sym (g ||| g') = sym g &&& sym g' := by
  revert g g'; decide

/-! The codebook entry of a channel (R71, R73). -/

/-- The position of a channel's lowest bit in the packed word (R64). -/
def channelShift : Channel → Nat
  | .red => 8
  | .green => 16
  | .blue => 0

theorem single_eq_shiftLeft (c : Channel) (v : Byte) : single c v = v.setWidth 24 <<< channelShift c := by
  cases c <;> simp [single, pack, channelShift]

/-- A bit of a channel's slot is the value's bit at that position of the packed word; positions outside the channel
hold 0. -/
theorem group_single_getLsbD {c : Channel} {v : Byte} {s : Slot} {i : Nat} (hi : i < 3) :
    (group (single c v) s).getLsbD i =
      (decide (channelShift c ≤ 21 + i - 3 * s.toNat) && v.getLsbD (21 + i - 3 * s.toNat - channelShift c)) := by
  have h24 : 21 + i - 3 * s.toNat < 24 := by omega
  have h24' : 21 + i - 3 * s.toNat - channelShift c < 24 := by omega
  rw [group_getLsbD hi, single_eq_shiftLeft, BitVec.getLsbD_shiftLeft, BitVec.getLsbD_setWidth]
  simp only [h24, h24', decide_true, Bool.true_and, ← decide_not, Nat.not_lt]

/-- A slot that starts at or above the channel's lowest bit carries the value's three bits from there, zeros above. -/
theorem group_single_of_shift_le {c : Channel} {s : Slot} (v : Byte) (h : channelShift c ≤ 21 - 3 * s.toNat) :
    group (single c v) s = v.extractLsb' (21 - 3 * s.toNat - channelShift c) 3 := by
  have := s.isLt
  refine BitVec.eq_of_getLsbD_eq fun i hi => ?_
  have hpos : 21 + i - 3 * s.toNat - channelShift c = 21 - 3 * s.toNat - channelShift c + i := by omega
  have hle : channelShift c ≤ 21 + i - 3 * s.toNat := by omega
  rw [group_single_getLsbD hi, BitVec.getLsbD_extractLsb', hpos]
  simp only [hle, hi, decide_true]

/-- A slot that starts below the channel's lowest bit carries the value's low bits, zeros below. -/
theorem group_single_of_le_shift {c : Channel} {s : Slot} (v : Byte) (h : 21 - 3 * s.toNat ≤ channelShift c) :
    group (single c v) s = v.setWidth 3 <<< (channelShift c - (21 - 3 * s.toNat)) := by
  have := s.isLt
  refine BitVec.eq_of_getLsbD_eq fun i hi => ?_
  have hpos : 21 + i - 3 * s.toNat - channelShift c = i - (channelShift c - (21 - 3 * s.toNat)) := by omega
  have hle : channelShift c ≤ 21 + i - 3 * s.toNat ↔ ¬ i < channelShift c - (21 - 3 * s.toNat) := by omega
  have hlt : i - (channelShift c - (21 - 3 * s.toNat)) < 3 := by omega
  rw [group_single_getLsbD hi, BitVec.getLsbD_shiftLeft, BitVec.getLsbD_setWidth, hpos]
  simp only [hle, hi, hlt, decide_true, decide_not, Bool.true_and]

/-- Bits read past a value's top are 0. -/
theorem extractLsb'_eq_setWidth_of_le {n start m len : Nat} (x : BitVec n) (h : n ≤ start + m) :
    x.extractLsb' start len = (x.extractLsb' start m).setWidth len := by
  refine BitVec.eq_of_getLsbD_eq fun i hi => ?_
  rw [BitVec.getLsbD_extractLsb', BitVec.getLsbD_setWidth, BitVec.getLsbD_extractLsb']
  by_cases him : i < m
  · simp only [hi, him, decide_true, Bool.true_and]
  · simp only [him, BitVec.getLsbD_of_ge x (start + i) (by omega), Bool.and_false, decide_false]

/-- A left shift keeps only the bits it does not push out. -/
theorem setWidth_shiftLeft_eq_extractLsb' {n m len k : Nat} (x : BitVec n) (h : len ≤ m + k) :
    x.setWidth len <<< k = (x.extractLsb' 0 m).setWidth len <<< k := by
  refine BitVec.eq_of_getLsbD_eq fun i hi => ?_
  simp only [BitVec.getLsbD_shiftLeft, BitVec.getLsbD_setWidth, BitVec.getLsbD_extractLsb', Nat.zero_add]
  by_cases hik : i < k
  · simp only [hik, decide_true, Bool.not_true, Bool.and_false, Bool.false_and]
  · simp only [show i - k < m by omega, decide_true, Bool.true_and]

/-- A slot that ends below the channel, or starts above it, has group 0 (R73). -/
theorem codebook_of_unoccupied {c : Channel} {s : Slot} (v : Byte)
    (h : 24 - 3 * s.toNat ≤ channelShift c ∨ channelShift c + 8 ≤ 21 - 3 * s.toNat) : codebook c v s = 0x5B#8 := by
  have hg : group (single c v) s = 0#3 := by
    refine BitVec.eq_of_getLsbD_eq fun i hi => ?_
    rw [group_single_getLsbD hi, BitVec.getLsbD_zero, Bool.and_eq_false_imp]
    intro hdec
    have hle : channelShift c ≤ 21 + i - 3 * s.toNat := of_decide_eq_true hdec
    exact BitVec.getLsbD_of_ge _ _ (by omega)
  rw [codebook, hg]; rfl

theorem codebook_green_of_unoccupied (v : Byte) {s : Slot} (h : 3 ≤ s.toNat) : codebook .green v s = 0x5B#8 :=
  codebook_of_unoccupied v (.inl (by simp only [channelShift]; omega))

theorem codebook_red_of_unoccupied (v : Byte) {s : Slot} (h : s.toNat < 2 ∨ 5 < s.toNat) : codebook .red v s = 0x5B#8 :=
  codebook_of_unoccupied v (by simp only [channelShift]; omega)

theorem codebook_blue_of_unoccupied (v : Byte) {s : Slot} (h : s.toNat < 5) : codebook .blue v s = 0x5B#8 :=
  codebook_of_unoccupied v (.inr (by simp only [channelShift]; omega))

theorem codebook_zero (c : Channel) (s : Slot) : codebook c 0#8 s = 0x5B#8 := by
  have hg : group (single c 0#8) s = 0#3 := by simp [single_eq_shiftLeft, group_eq_extractLsb']
  rw [codebook, hg]; rfl

/-! CB_LOOKUP's meaning (R76). -/

/-- R60: the response word is the byte, zero-extended. -/
theorem byteResponse_eq_setWidth (b : Byte) : byteResponse b = b.setWidth 32 :=
  (BitVec.setWidth_eq_append (by decide)).symm

theorem exec_cbLookup_of_no_channel {ch : BitVec 2} (h : channelOf ch = none) (val : Byte) (slot : Slot) (s : State) :
    exec (.cbLookup ch val slot) s = .next (faultCommand .badChannel (.cbLookup ch val slot) s) := by
  simp only [exec, execCbLookup, h]

theorem exec_cbLookup_of_channel {ch : BitVec 2} {c : Channel} (h : channelOf ch = some c) (val : Byte) (slot : Slot)
    (s : State) :
    exec (.cbLookup ch val slot) s =
      .next { s with rspValid := true, rspData := (codebook c val slot).setWidth 32 } := by
  simp only [exec, execCbLookup, h, byteResponse_eq_setWidth, respond]

/-! The acceptance of a command's word (R82): the same for every command. -/

theorem acceptCommand_of_legal {s : State} {w : Word} {ws : List Word} {i : Instr} (ho : s.offered = w :: ws)
    (hd : decode w = .ok i) : acceptCommand s = exec i { s with offered := ws } := by
  simp only [acceptCommand, fetchWord, ho, hd]

/-- While the port is not ready, a command turn takes no move. -/
theorem step_command_of_not_ready {s : State} {ts : List Turn} (ha : s.agenda = .move .command :: ts)
    (hr : s.cmdReady = false) : step s = .next { s with agenda := ts } := by
  have hen : enabled .command { s with agenda := ts } = false := by
    rw [enabled, Bool.and_eq_false_iff]; exact .inr hr
  have hm : moveOf (.move .command) { s with agenda := ts } = none := by simp [moveOf, hen]
  simp only [step, ha, runTurn, hm]

/-- R83 to R85, R76, R81: a command's own word is accepted exactly when cmd_ready. -/
theorem acceptedOnlyWhenReady (i : Instr) : AcceptedOnlyWhenReady i := by
  intro s ts ws ha ho
  rw [← cmdReady_iff]
  refine ⟨fun hr => ?_, fun hr => step_command_of_not_ready ha (Bool.eq_false_iff.mpr hr)⟩
  calc step s
    _ = acceptCommand { s with agenda := ts } := step_command ha ho hr
    _ = exec i (Accepted s ts ws) := acceptCommand_of_legal ho (decode_encode i)

/-- R83 to R85, R76, R81: where the decoder tests an opcode's word against a mask, an accepted word with a masked bit
set takes ILLEGAL_CMD. -/
theorem reservedBitFaults_of_decode {op : BitVec 4} {mask : Word} {field : Word → Instr}
    (hdec : ∀ w : Word, opcodeOf w = op → decode w = legalIf w mask (field w)) : ReservedBitFaults op mask := by
  intro w s ts ws hop hmask ha ho hr
  have hill : ∃ r, decode w = .error r := by rw [hdec w hop]; exact exists_legalIf_eq_error_iff.mpr hmask
  obtain ⟨r, hd⟩ := hill
  calc step s
    _ = acceptCommand { s with agenda := ts } := step_command ha ho hr
    _ = .next (rejectIllegal w (Accepted s ts ws)) := acceptCommand_of_illegal ho hd

/-! The statements. -/

/-- Settles O15: CH selects the channel or faults, the corner cases are slots with group 0, and the acceptance is that
of every command's word. -/
theorem cbLookupCommand : Obligations.CbLookupCommand := by
  refine ⟨?badChannel, fun val slot s _ => exec_cbLookup_of_channel rfl val slot s,
    fun val slot s _ => exec_cbLookup_of_channel rfl val slot s,
    fun val slot s _ => exec_cbLookup_of_channel rfl val slot s, codebook_zero,
    fun v _ => codebook_green_of_unoccupied v, fun v _ => codebook_red_of_unoccupied v,
    fun v _ => codebook_blue_of_unoccupied v, fun ch val slot => acceptedOnlyWhenReady _,
    reservedBitFaults_of_decode fun _ => decode_of_opcode_cbLookup⟩
  case badChannel =>
    rintro ch val slot s - rfl
    exact exec_cbLookup_of_no_channel rfl val slot s

/-- Settles O42: the closed form over the eight groups; and a slot's group bits, negated in the symbol byte. -/
theorem symbolByteBits : Obligations.SymbolByteBits := by
  refine ⟨sym_closed_form, fun w s => ?_⟩
  have hb2 : (group w s).getLsbD 2 = w.getLsbD (23 - 3 * s.toNat) := group_getLsbD (by decide)
  have hb1 : (group w s).getLsbD 1 = w.getLsbD (22 - 3 * s.toNat) := group_getLsbD (by decide)
  have hb0 : (group w s).getLsbD 0 = w.getLsbD (21 - 3 * s.toNat) := group_getLsbD (by decide)
  rw [← hb2, ← hb1, ← hb0]
  exact ⟨rfl, rfl, rfl, sym_bits (group w s)⟩

/-- Settles O46: the packed word is the OR of the channels' own, a group of an OR is the OR of the groups, and `sym`
turns it into AND. -/
theorem combinationInvariant : Obligations.CombinationInvariant := by
  intro r g b s
  simp only [codebook, pack_eq_or_single, group_or, sym_or]

/-- Settles O41: the packed word is G, R and B one after another. -/
theorem packedWordOrder : Obligations.PackedWordOrder := by
  intro r g b
  refine ⟨?_, ?_, ?_, rfl⟩ <;> rw [pack_eq_append]
  · exact extractLsb'_append_of_high (by decide) BitVec.extractLsb'_append_eq_left
  · exact extractLsb'_append_of_high (by decide) BitVec.extractLsb'_append_eq_right
  · exact BitVec.extractLsb'_append_eq_right

/-- Settles O45: a listed slot starts inside its channel or below it, and the other slots are outside it. -/
theorem channelSlotOccupancy : Obligations.ChannelSlotOccupancy := by
  intro v
  refine ⟨?green0, ?green1, ?green2, ?red2, ?red3, ?red4, ?red5, ?blue5, ?blue6, ?blue7,
    fun _ => codebook_green_of_unoccupied v, fun _ => codebook_red_of_unoccupied v,
    fun _ => codebook_blue_of_unoccupied v⟩
  case green2 | red5 =>
    rw [codebook, group_single_of_le_shift v (by decide)]
    exact congrArg sym (setWidth_shiftLeft_eq_extractLsb' v (by decide))
  case red2 | blue5 =>
    rw [codebook, group_single_of_shift_le v (by decide)]
    exact congrArg sym (extractLsb'_eq_setWidth_of_le v (by decide))
  case green0 | green1 | red3 | red4 | blue6 | blue7 => exact congrArg sym (group_single_of_shift_le v (by decide))

end Sys2Proof.Proofs

/-! PROOFS of the statements about the address map (41_address_map.md), after the one column function of which AMAP, its
inverse and RIDX are made, the fields of a coordinate response, and MAP_LOOKUP's meaning. -/

namespace Sys2Proof.Proofs

open Sys2Proof.Machine Sys2Proof.Safety Host.Outcome

/-! The columns of a row (R77). The map keeps the row and turns the columns of an odd row round; turning them round
twice changes nothing, and that is the whole of R79. -/

/-- R77: the column of the `i`-th pixel of row `y`. -/
def serpentineColumn (w y i : Nat) : Nat := if y % 2 = 0 then i else w - 1 - i

theorem serpentineColumn_of_even {y : Nat} (w i : Nat) (hy : y % 2 = 0) : serpentineColumn w y i = i := if_pos hy

theorem serpentineColumn_of_odd {y : Nat} (w i : Nat) (hy : y % 2 = 1) : serpentineColumn w y i = w - 1 - i :=
  if_neg (by omega)

theorem serpentineColumn_lt {w y i : Nat} (hi : i < w) : serpentineColumn w y i < w := by
  unfold serpentineColumn
  split <;> omega

theorem serpentineColumn_serpentineColumn {w y i : Nat} (hi : i < w) :
    serpentineColumn w y (serpentineColumn w y i) = i := by
  unfold serpentineColumn
  split <;> omega

/-! AMAP, its inverse and RIDX in terms of the column. -/

theorem amap_eq_serpentineColumn (w p : Nat) : amap w p = (serpentineColumn w (p / w) (p % w), p / w) := by
  unfold amap serpentineColumn
  split <;> rfl

theorem ridx_eq_serpentineColumn (w p : Nat) : ridx w p = p / w * w + serpentineColumn w (p / w) (p % w) := by
  rw [ridx, amap_eq_serpentineColumn, rasterIndex]

/-- R79(e). -/
theorem amapInverse_eq_serpentineColumn (w x y : Nat) : amapInverse w (x, y) = y * w + serpentineColumn w y x := rfl

/-- R79(c), for both directions of a row. -/
theorem amap_row_column {w i : Nat} (y : Nat) (hi : i < w) : amap w (y * w + i) = (serpentineColumn w y i, y) := by
  obtain hy | hy := Nat.mod_two_eq_zero_or_one y
  · rw [amap_even_row hi hy, serpentineColumn_of_even w i hy]
  · rw [amap_odd_row hi hy, serpentineColumn_of_odd w i hy]

theorem ridx_row_column {w i : Nat} (y : Nat) (hi : i < w) : ridx w (y * w + i) = y * w + serpentineColumn w y i := by
  rw [ridx, amap_row_column y hi, rasterIndex]

theorem row_column_lt {w h y i : Nat} (hi : i < w) (hy : y < h) : y * w + i < w * h :=
  calc y * w + i
    _ < y * w + w := Nat.add_lt_add_left hi _
    _ = w * (y + 1) := by ring
    _ ≤ w * h := Nat.mul_le_mul_left w hy

/-! R79(a) and (e): the two inverses, and the permutation. -/

theorem amapInverse_amap {w h p : Nat} (hp : p < w * h) : amapInverse w (amap w p) = p := by
  have hi : p % w < w := Nat.mod_lt p (width_pos hp)
  rw [amap_eq_serpentineColumn, amapInverse_eq_serpentineColumn, serpentineColumn_serpentineColumn hi]
  exact Nat.div_add_mod' p w

theorem amapInverse_lt {w h x y : Nat} (hx : x < w) (hy : y < h) : amapInverse w (x, y) < w * h :=
  row_column_lt (serpentineColumn_lt hx) hy

theorem amap_amapInverse {w x : Nat} (y : Nat) (hx : x < w) : amap w (amapInverse w (x, y)) = (x, y) := by
  rw [amapInverse_eq_serpentineColumn, amap_row_column y (serpentineColumn_lt hx), serpentineColumn_serpentineColumn hx]

theorem ridx_lt {w h p : Nat} (hp : p < w * h) : ridx w p < w * h := by
  have hi : p % w < w := Nat.mod_lt p (width_pos hp)
  rw [ridx_eq_serpentineColumn]
  exact row_column_lt (serpentineColumn_lt hi) (row_lt hp)

theorem ridx_ridx {w h p : Nat} (hp : p < w * h) : ridx w (ridx w p) = p := by
  have hi : p % w < w := Nat.mod_lt p (width_pos hp)
  rw [ridx_eq_serpentineColumn w p, ridx_row_column _ (serpentineColumn_lt hi), serpentineColumn_serpentineColumn hi]
  exact Nat.div_add_mod' p w

/-! R78 by the parity of the row, and R79(d)'s degenerate cases. -/

theorem ridx_of_even_row {w p : Nat} (hy : p / w % 2 = 0) : ridx w p = p := by
  rw [ridx_eq_serpentineColumn, serpentineColumn_of_even _ _ hy]
  exact Nat.div_add_mod' p w

theorem ridx_of_odd_row {w p : Nat} (hy : p / w % 2 = 1) : ridx w p = p / w * w + (w - 1 - p % w) := by
  rw [ridx_eq_serpentineColumn, serpentineColumn_of_odd _ _ hy]

/-- A frame one pixel wide has column 0 alone. -/
theorem amap_width_one (p : Nat) : amap 1 p = (0, p) := by
  have hcol : serpentineColumn 1 p 0 = 0 := Nat.lt_one_iff.mp (serpentineColumn_lt Nat.zero_lt_one)
  rw [amap_eq_serpentineColumn, Nat.div_one, Nat.mod_one, hcol]

theorem ridx_width_one (p : Nat) : ridx 1 p = p := by
  rw [ridx, amap_width_one, rasterIndex]
  omega

/-- A frame of one row has row 0 alone, which is even. -/
theorem ridx_height_one {w p : Nat} (hp : p < w * 1) : ridx w p = p := by
  have hrow : p / w = 0 := Nat.lt_one_iff.mp (row_lt hp)
  exact ridx_of_even_row (by rw [hrow])

/-- The first pixel of row 1 is the last of its row in raster order. -/
theorem ridx_width_ne {w : Nat} (hw : 2 ≤ w) : ridx w w ≠ w := by
  have hpos : 0 < w := by omega
  have hrow : w / w = 1 := Nat.div_self hpos
  have hodd : ridx w w = w / w * w + (w - 1 - w % w) := ridx_of_odd_row (by rw [hrow])
  rw [hrow, Nat.mod_self] at hodd
  omega

/-! The corner cases of R81. -/

theorem amap_zero (w : Nat) : amap w 0 = (0, 0) := by
  rw [amap_eq_serpentineColumn, Nat.zero_div, Nat.zero_mod, serpentineColumn_of_even _ _ rfl]

/-- The last pixel is at the end of the last row, which runs left to right when the height is odd. -/
theorem amap_last {w h : Nat} (hw : 1 ≤ w) (hh : 1 ≤ h) :
    amap w (w * h - 1) = if h % 2 = 0 then (0, h - 1) else (w - 1, h - 1) := by
  obtain ⟨y, rfl⟩ : ∃ y, h = y + 1 := ⟨h - 1, by omega⟩
  have hlast : w * (y + 1) - 1 = y * w + (w - 1) := by rw [Nat.mul_succ, Nat.mul_comm, Nat.add_sub_assoc hw]
  rw [hlast, amap_row_column y (by omega), Nat.add_sub_cancel]
  split
  · rw [serpentineColumn_of_odd w _ (by omega), Nat.sub_self]
  · rw [serpentineColumn_of_even w _ (by omega)]

/-! The response word of a coordinate pair (R60). -/

theorem coordResponse_x {xy : Nat × Nat} (hx : xy.1 < 2 ^ 12) : ((coordResponse xy).extractLsb 23 12).toNat = xy.1 := by
  have hfield : (coordResponse xy).extractLsb 23 12 = BitVec.ofNat 12 xy.1 :=
    extractLsb'_append_of_high (by decide) BitVec.extractLsb'_append_eq_right
  rw [hfield, BitVec.toNat_ofNat, Nat.mod_eq_of_lt hx]

theorem coordResponse_y {xy : Nat × Nat} (hy : xy.2 < 2 ^ 12) : ((coordResponse xy).extractLsb 11 0).toNat = xy.2 := by
  have hfield : (coordResponse xy).extractLsb 11 0 = BitVec.ofNat 12 xy.2 := BitVec.extractLsb'_append_eq_right
  rw [hfield, BitVec.toNat_ofNat, Nat.mod_eq_of_lt hy]

theorem coordResponse_reserved (xy : Nat × Nat) : (coordResponse xy).extractLsb 31 24 = 0#8 :=
  extractLsb'_append_of_high (by decide) BitVec.extractLsb'_append_eq_left

/-! MAP_LOOKUP's meaning (R81), with its checks in R96's order. -/

theorem exec_mapLookup_of_unconfigured {s : State} (hp : s.phase = .unconfigured) (p : BitVec 24) :
    exec (.mapLookup p) s = .next (faultCommand .notConfigured (.mapLookup p) s) := by
  rw [exec, execMapLookup, if_pos hp]

theorem exec_mapLookup_of_outside {s : State} {p : BitVec 24} (hp : s.phase ≠ .unconfigured)
    (h : s.pixelCount ≤ p.toNat) : exec (.mapLookup p) s = .next (faultCommand .badIndex (.mapLookup p) s) := by
  rw [exec, execMapLookup, if_neg hp, if_pos h]

theorem exec_mapLookup_of_inside {s : State} {p : BitVec 24} (hp : s.phase ≠ .unconfigured)
    (h : p.toNat < s.pixelCount) :
    exec (.mapLookup p) s = .next (respond (coordResponse (amap s.width.toNat p.toNat)) s) := by
  rw [exec, execMapLookup, if_neg hp, if_neg (Nat.not_le.mpr h)]

/-! The statements. -/

/-- Settles O16: MAP_LOOKUP's three outcomes, coordinates that fit their fields because they are below W and H, and the
acceptance of every command's word. -/
theorem mapLookupCommand : Obligations.MapLookupCommand := by
  refine ⟨fun p s _ hp => exec_mapLookup_of_unconfigured hp p,
    fun p s _ hp h => exec_mapLookup_of_outside (by simp [hp]) h, ?inside, amap_zero, fun w h => amap_last,
    amap_width_one, fun p => acceptedOnlyWhenReady _, reservedBitFaults_of_decode fun _ => decode_of_opcode_mapLookup⟩
  case inside =>
    intro p s _ hp h
    obtain ⟨hx, hy⟩ := amap_inside h
    exact ⟨_, exec_mapLookup_of_inside (by simp [hp]) h, coordResponse_x (hx.trans s.width.isLt),
      coordResponse_y (hy.trans s.height.isLt), coordResponse_reserved _⟩

/-- Settles O47: the map keeps rows and turns an odd row's columns round, which is its own inverse; with both dimensions
at least 2, RIDX moves the first pixel of row 1. -/
theorem serpentineMap : Obligations.SerpentineMap := by
  refine ⟨fun w h p hp => ?forward, fun w h x y hx hy => ⟨amapInverse_lt hx hy, amap_amapInverse y hx⟩,
    fun w h p hp => ⟨ridx_lt hp, ridx_ridx hp⟩, fun w y i => amap_even_row, fun w y i => amap_odd_row,
    fun p => ⟨amap_width_one p, ridx_width_one p⟩, fun w p => ridx_height_one, fun w h hw hh => ?moved⟩
  case forward =>
    obtain ⟨hx, hy⟩ := amap_inside hp
    exact ⟨hx, hy, amapInverse_amap hp⟩
  case moved =>
    have hpos : 0 < w := by omega
    exact ⟨w, lt_mul_of_one_lt_right hpos hh, ridx_width_ne hw⟩

/-- Settles O48, by the parity of the row. -/
theorem rasterIndexClosedForm : Obligations.RasterIndexClosedForm := by
  intro w h p _
  exact ⟨rfl, ridx_of_even_row, ridx_of_odd_row⟩

end Sys2Proof.Proofs

/-! PROOFS of the statements about the frame encoder (42_frame_encoder.md), after the outcomes of CONFIG and ENCODE, the
emission step, the byte at each offset of a frame, and the run of a frame's emissions. -/

namespace Sys2Proof.Proofs

open Sys2Proof.Machine Sys2Proof.Safety Host.Outcome

/-! CONFIG's meaning (R83), with its checks in R96's order. -/

theorem exec_config_of_configured {s : State} (hp : s.phase ≠ .unconfigured) (w h : BitVec 12) :
    exec (.config w h) s = .next (faultCommand .configLocked (.config w h) s) := by
  rw [exec, execConfig, if_pos hp]

theorem exec_config_of_zero {w h : BitVec 12} {s : State} (hp : s.phase = .unconfigured) (hz : w = 0#12 ∨ h = 0#12) :
    exec (.config w h) s = .next (faultCommand .badDimensions (.config w h) s) := by
  rw [exec, execConfig, if_neg (not_not.mpr hp), if_pos hz]

/-- A zero dimension and a frame that is too large raise the same fault, so their order does not show. -/
theorem exec_config_of_too_large {w h : BitVec 12} {s : State} (hp : s.phase = .unconfigured)
    (hlarge : s.fmCapacity < w.toNat * h.toNat) :
    exec (.config w h) s = .next (faultCommand .badDimensions (.config w h) s) := by
  rw [exec, execConfig, if_neg (not_not.mpr hp), if_pos hlarge, ite_self]

theorem exec_config_of_fits {w h : BitVec 12} {s : State} (hp : s.phase = .unconfigured) (hw : w ≠ 0#12)
    (hh : h ≠ 0#12) (hfit : w.toNat * h.toNat ≤ s.fmCapacity) :
    exec (.config w h) s = .next (bindDimensions w h s) := by
  rw [exec, execConfig, if_neg (not_not.mpr hp), if_neg (not_or.mpr ⟨hw, hh⟩), if_neg (Nat.not_lt.mpr hfit)]

/-! ENCODE's meaning (R85), with its checks in R96's order. -/

theorem exec_encode_of_unconfigured {s : State} (hp : s.phase = .unconfigured) :
    exec .encode s = .next (faultCommand .notConfigured .encode s) := by
  rw [exec, execEncode, if_pos hp]

theorem exec_encode_of_underflow {s : State} (hp : s.phase ≠ .unconfigured) (h : s.wrPtr.toNat ≠ s.pixelCount) :
    exec .encode s = .next (faultCommand .frameUnderflow .encode s) := by
  rw [exec, execEncode, if_neg hp, if_pos h]

theorem exec_encode_of_loaded {s : State} (hp : s.phase ≠ .unconfigured) (h : s.wrPtr.toNat = s.pixelCount) :
    exec .encode s = .next (beginFrame s) := by
  rw [exec, execEncode, if_neg hp, if_neg (not_not.mpr h)]

/-! The emission step (R86). -/

/-- R7: a frame's bytes can be counted in ENC_POS's 27 bits. -/
theorem frameSize_lt (s : State) : s.frameSize < 2 ^ 27 := by
  have hn : s.width.toNat * s.height.toNat < 2 ^ 12 * 2 ^ 12 := Nat.mul_lt_mul'' s.width.isLt s.height.isLt
  simp only [State.frameSize, State.pixelCount, Config.slots]
  omega

/-- Within a frame ENC_POS advances without wrapping. -/
theorem encPos_add_one_toNat {s : State} (h : s.encPos.toNat < s.frameSize) :
    (s.encPos + 1#27).toNat = s.encPos.toNat + 1 := by
  have hsize := frameSize_lt s
  simp only [BitVec.toNat_add, BitVec.toNat_ofNat]
  omega

/-- While BUSY, the emission's turn emits the next byte where there is one. -/
theorem step_emit {s : State} {ts : List Turn} {b : Byte} (ha : s.agenda = .move .emit :: ts) (hp : s.phase = .busy)
    (hb : nextByte s = .ok b) : step s = .next (closeFrame (emitByte b { s with agenda := ts })) := by
  have hm : moveOf (.move .emit) { s with agenda := ts } = some .emit := if_pos (outValid_iff.mpr hp)
  have hb' : nextByte { s with agenda := ts } = .ok b := hb
  simp only [step, ha, runTurn, hm, perform, emitStep, hb']

theorem step_emit_of_last {s : State} {ts : List Turn} {b : Byte} (ha : s.agenda = .move .emit :: ts)
    (hp : s.phase = .busy) (hb : nextByte s = .ok b) (h : s.encPos.toNat + 1 = s.frameSize) :
    step s = .next (finishFrame (emitByte b { s with agenda := ts })) := by
  have hend : (s.encPos + 1#27).toNat = s.frameSize := (encPos_add_one_toNat (by omega)).trans h
  exact (step_emit ha hp hb).trans (congrArg next (if_pos hend))

theorem step_emit_of_not_last {s : State} {ts : List Turn} {b : Byte} (ha : s.agenda = .move .emit :: ts)
    (hp : s.phase = .busy) (hb : nextByte s = .ok b) (h : s.encPos.toNat + 1 < s.frameSize) :
    step s = .next (emitByte b { s with agenda := ts }) := by
  have hmid : (s.encPos + 1#27).toNat ≠ s.frameSize := by rw [encPos_add_one_toNat (by omega)]; omega
  exact (step_emit ha hp hb).trans (congrArg next (if_neg hmid))

/-- R40, R86: the byte at an offset is a slot of the packed pixel that the address map selects. -/
theorem frameByte_of_read {w n j : Nat} {m : FrameMem} {px : Pixel} (hj : j / 8 < n)
    (hr : FrameMem.read m (ridx w (j / 8)) = some px) :
    frameByte w n m j = .ok (sym (group (packPixel px) (BitVec.ofNat 3 (j % 8)))) := by
  simp only [frameByte, if_pos hj, hr]

/-! A sink that holds back (R86): while BUSY neither a command turn nor a cycle without events takes a move. -/

theorem step_of_no_turn {s : State} (ha : s.agenda = []) : step s = .next s := by
  simp only [step, ha]

theorem step_of_no_move {s : State} {turn : Turn} {ts : List Turn} (ha : s.agenda = turn :: ts)
    (hm : moveOf turn { s with agenda := ts } = none) : step s = .next { s with agenda := ts } := by
  simp only [step, ha, runTurn, hm]

theorem cmdReady_of_busy {s : State} (hp : s.phase = .busy) : s.cmdReady = false :=
  Bool.eq_false_iff.mpr fun hr => phase_ne_busy_of_cmdReady hr hp

/-- A cycle without reset, sink error or a ready sink takes no move while BUSY (R97). -/
theorem arbitrate_idle_of_busy {s : State} (hp : s.phase = .busy) : arbitrate ⟨false, false, false⟩ s = none := by
  simp [arbitrate, enabled, cmdReady_of_busy hp]

/-! FRAMEBYTES (R87), and the byte at each of its offsets (R40). -/

theorem frameBytes_succ_eq_some {w n : Nat} {m : FrameMem} {bytes : List Byte} :
    frameBytes w m (n + 1) = some bytes ↔ ∃ bs px, frameBytes w m n = some bs ∧
      FrameMem.read m (ridx w n) = some px ∧ bytes = bs ++ encodePacked (packPixel px) := by
  rw [frameBytes]
  cases frameBytes w m n <;> cases FrameMem.read m (ridx w n) <;> simp [eq_comm]

/-- FRAMEBYTES is defined where every element that the frame's pixels map to was written. -/
theorem exists_frameBytes {w n : Nat} {m : FrameMem} (h : ∀ p < n, (FrameMem.read m (ridx w p)).isSome = true) :
    ∃ bytes, frameBytes w m n = some bytes := by
  induction n with
  | zero => exact ⟨[], rfl⟩
  | succ n ih =>
    obtain ⟨bs, hbs⟩ := ih fun p hp => h p (by omega)
    obtain ⟨px, hpx⟩ := Option.isSome_iff_exists.mp (h n (by omega))
    exact ⟨_, frameBytes_succ_eq_some.mpr ⟨bs, px, hbs, hpx, rfl⟩⟩

theorem encodePacked_length (w : Packed) : (encodePacked w).length = 8 := by
  rw [encodePacked, List.length_map]; rfl

/-- R68: slot `k` gives byte `k` of a packed word. -/
theorem encodePacked_getElem {w : Packed} {k : Nat} (hk : k < (encodePacked w).length) :
    (encodePacked w)[k] = sym (group w (BitVec.ofNat 3 k)) := by
  have hslot : k < 8 := encodePacked_length w ▸ hk
  interval_cases k <;> rfl

theorem frameBytes_length {w n : Nat} {m : FrameMem} {bytes : List Byte} (h : frameBytes w m n = some bytes) :
    bytes.length = 8 * n := by
  induction n generalizing bytes with
  | zero => cases h; rfl
  | succ n ih =>
    obtain ⟨bs, px, hbs, -, rfl⟩ := frameBytes_succ_eq_some.mp h
    rw [List.length_append, ih hbs, encodePacked_length, Nat.mul_succ]

/-- R40, R87: the emission at an offset reads the byte that FRAMEBYTES has there. -/
theorem frameByte_eq_getElem {w n N j : Nat} {m : FrameMem} {bytes : List Byte} (h : frameBytes w m n = some bytes)
    (hn : n ≤ N) (hj : j < bytes.length) : frameByte w N m j = .ok bytes[j] := by
  induction n generalizing bytes with
  | zero => cases h; simp at hj
  | succ n ih =>
    have hlen := frameBytes_length h
    obtain ⟨bs, px, hbs, hpx, rfl⟩ := frameBytes_succ_eq_some.mp h
    have hlen' := frameBytes_length hbs
    by_cases hlt : j < bs.length
    · rw [List.getElem_append_left hlt]
      exact ih hbs (by omega) hlt
    · have hrow : j / 8 = n := by omega
      have hslot : j % 8 = j - bs.length := by omega
      rw [List.getElem_append_right (by omega), encodePacked_getElem, ← hslot]
      exact frameByte_of_read (by omega) (by rw [hrow]; exact hpx)

/-! The run of a frame's emissions (R87). -/

theorem runSteps_succ_of_step {s t : State} (n : Nat) (e : step s = .next t) : runSteps (n + 1) s = runSteps n t := by
  simp only [runSteps, e]

/-- The block after the last emission of a frame whose bytes still to come were `bytes`. -/
def frameSent (bytes : List Byte) (s : State) : State :=
  finishFrame { s with out := s.out ++ bytes, encPos := BitVec.ofNat 27 s.frameSize }

theorem frameSent_emitByte (b : Byte) (bs : List Byte) (s : State) :
    frameSent bs (emitByte b s) = frameSent (b :: bs) s := by
  simp only [frameSent, emitByte, List.append_cons s.out b bs]
  rfl

theorem finishFrame_emitByte_of_last {s : State} (h : s.encPos.toNat + 1 = s.frameSize) (b : Byte) :
    finishFrame (emitByte b s) = frameSent [b] s := by
  have hpos : s.encPos + 1#27 = BitVec.ofNat 27 s.frameSize :=
    BitVec.eq_of_toNat_eq <| by
      rw [encPos_add_one_toNat (by omega), h, BitVec.toNat_ofNat, Nat.mod_eq_of_lt (frameSize_lt s)]
  simp only [frameSent, emitByte, hpos]

/-- From ENC_POS to the end of the frame, as many emission turns as bytes are left append those bytes and finish the
frame. -/
theorem runSteps_emissions {bs : List Byte} (hne : bs ≠ []) {s : State} {rest : List Turn} (hp : s.phase = .busy)
    (ha : s.agenda = List.replicate bs.length (Turn.move .emit) ++ rest)
    (hend : s.encPos.toNat + bs.length = s.frameSize)
    (hbytes : ∀ (i : Nat) (hi : i < bs.length),
      frameByte s.width.toNat s.pixelCount s.fm (s.encPos.toNat + i) = .ok bs[i]) :
    runSteps bs.length s = .next (frameSent bs { s with agenda := rest }) := by
  induction bs generalizing s with
  | nil => exact absurd rfl hne
  | cons b bs ih =>
    have hb : nextByte s = .ok b := hbytes 0 (Nat.zero_lt_succ _)
    rw [List.length_cons] at hend
    cases bs with
    | nil =>
      calc runSteps 1 s
        _ = .next (finishFrame (emitByte b { s with agenda := rest })) :=
          runSteps_succ_of_step 0 (step_emit_of_last ha hp hb hend)
        _ = .next (frameSent [b] { s with agenda := rest }) :=
          congrArg next (finishFrame_emitByte_of_last (s := { s with agenda := rest }) hend b)
    | cons c cs =>
      have hmid : s.encPos.toNat + 1 < s.frameSize := by rw [List.length_cons] at hend; omega
      have hpos := encPos_add_one_toNat (s := s) (by omega)
      calc runSteps ((c :: cs).length + 1) s
        _ = runSteps (c :: cs).length (emitByte b { s with agenda := _ }) :=
          runSteps_succ_of_step _ (step_emit_of_not_last ha hp hb hmid)
        _ = .next (frameSent (c :: cs) (emitByte b { s with agenda := rest })) := by
          refine ih (List.cons_ne_nil c cs) hp rfl ?_ fun i hi => ?_
          · rw [emitByte_encPos, emitByte_frameSize, hpos]; exact (Nat.add_right_comm _ _ _).trans hend
          · rw [emitByte_encPos, hpos, Nat.add_assoc, Nat.add_comm 1]; exact hbytes (i + 1) (Nat.succ_lt_succ hi)
        _ = .next (frameSent (b :: c :: cs) { s with agenda := rest }) := congrArg next (frameSent_emitByte b _ _)

/-- From ENC_POS 0, the emissions of a whole frame append FRAMEBYTES. -/
theorem runSteps_frame {s : State} {bytes : List Byte} {rest : List Turn} (hp : s.phase = .busy)
    (hpos : s.encPos = 0#27) (hn : 0 < s.frameSize) (hb : frameBytes s.width.toNat s.fm s.pixelCount = some bytes)
    (ha : s.agenda = List.replicate s.frameSize (Turn.move .emit) ++ rest) :
    runSteps s.frameSize s = .next (frameSent bytes { s with agenda := rest }) := by
  have hlen : bytes.length = s.frameSize := frameBytes_length hb
  rw [← hlen] at ha hn ⊢
  refine runSteps_emissions (List.ne_nil_of_length_pos hn) hp ha ?_ fun i hi => ?_
  · rw [hpos]; exact (Nat.zero_add _).trans hlen
  · rw [hpos]; simpa using frameByte_eq_getElem hb le_rfl hi

/-- A loaded frame has its bytes: an invariant state has written every element below WR_PTR (R29). -/
theorem exists_frameBytes_of_loaded {s : State} (hinv : Inv s) (hl : s.wrPtr.toNat = s.pixelCount) :
    ∃ bytes, frameBytes s.width.toNat s.fm s.pixelCount = some bytes :=
  exists_frameBytes fun _ hp => hinv.loaded_written _ (hl ▸ ridx_lt hp)

/-- R83: a configured frame has at least one byte. -/
theorem frameSize_pos_of_idle {s : State} (hinv : Inv s) (hp : s.phase = .idle) : 0 < s.frameSize := by
  obtain ⟨hw, hh⟩ := hinv.configured_nonzero (.inl hp)
  exact Nat.mul_pos (by decide) (Nat.mul_pos (BitVec.toNat_pos_of_ne_zero hw) (BitVec.toNat_pos_of_ne_zero hh))

/-! The statements. -/

/-- Settles O12: CONFIG's outcomes check by check, and the acceptance of every command's word. -/
theorem configCommand : Obligations.ConfigCommand :=
  ⟨fun w h _ _ hp => exec_config_of_configured (by simp [hp]) w h, fun _ _ _ _ hp hz => exec_config_of_zero hp hz,
    fun _ _ _ _ hp hlarge => exec_config_of_too_large hp hlarge,
    fun _ _ _ _ hp hw hh hfit => exec_config_of_fits hp hw hh hfit, fun _ _ => acceptedOnlyWhenReady _,
    reservedBitFaults_of_decode fun _ => decode_of_opcode_config⟩

/-- Settles O14: ENCODE's outcomes check by check, and the acceptance of every command's word. -/
theorem encodeCommand : Obligations.EncodeCommand :=
  ⟨fun _ _ hp => exec_encode_of_unconfigured hp, fun _ _ hp hl => exec_encode_of_underflow (by simp [hp]) hl,
    fun _ _ hp hl => exec_encode_of_loaded (by simp [hp]) hl, acceptedOnlyWhenReady _,
    reservedBitFaults_of_decode (field := fun _ => .encode) fun _ => decode_of_opcode_encode⟩

/-- Settles O17: the byte is the one `out_data` shows, the emission is the frame's last or not, and while the sink holds
back no move is enabled. -/
theorem emissionStep : Obligations.EmissionStep := by
  refine ⟨fun s ts px ha hp hj hr => ?emits, fun s hp => ⟨step_of_no_turn, fun ts ha => ?command, ?cycle⟩⟩
  case emits =>
    have hb : nextByte s = .ok (sym (group (packPixel px) (BitVec.ofNat 3 (s.encPos.toNat % 8)))) :=
      frameByte_of_read hj hr
    refine ⟨_, rfl, outData_of_nextByte hp hb, fun hne => ?_, fun hend => step_emit_of_last ha hp hb hend⟩
    have hmid : s.encPos.toNat + 1 < 8 * (s.width.toNat * s.height.toNat) := by omega
    exact step_emit_of_not_last ha hp hb hmid
  case command => exact step_command_of_not_ready ha (cmdReady_of_busy hp)
  case cycle =>
    rintro sinkReady ts ha rfl
    exact step_of_no_move ha (arbitrate_idle_of_busy hp)

/-- Settles O37: the accepted ENCODE begins a frame whose bytes exist because it is loaded, and its emissions append
them. -/
theorem frameFunction : Obligations.FrameFunction := by
  intro s ws rest hinv hp hrsp hl ho ha
  obtain ⟨bytes, hb⟩ := exists_frameBytes_of_loaded hinv hl
  refine ⟨bytes, hb, (frameBytes_length hb).trans (Nat.mul_comm 8 _), ?_⟩
  have hencode : step s = .next (beginFrame (Accepted s _ ws)) :=
    ((acceptedOnlyWhenReady .encode s _ ws ha ho).1 ⟨.inr hp, hrsp⟩).trans
      (exec_encode_of_loaded (by simp [Accepted, hp]) hl)
  have hpos : 0 < s.frameSize := frameSize_pos_of_idle hinv hp
  rw [Nat.add_comm, runSteps_succ_of_step _ hencode]
  exact runSteps_frame (s := beginFrame (Accepted s _ ws)) rfl rfl hpos hb rfl

end Sys2Proof.Proofs

/-! PROOFS of the statements about faults (60_exceptions.md), after the ways into FAULT and what FAULT disables. -/

namespace Sys2Proof.Proofs

open Sys2Proof.Machine Sys2Proof.Safety Host.Outcome

/-! The ways into FAULT (R98): an accepted word's fault and the sink error. -/

/-- A command that enters FAULT does nothing but raise its fault, and only the sink raises SINK_ERROR (R94). -/
theorem exec_next_of_fault_entry {i : Instr} {s t : State} (e : exec i s = next t) (hs : s.phase ≠ .fault)
    (ht : t.phase = .fault) : ∃ code, code ≠ .noFault ∧ code ≠ .sinkError ∧ t = faultCommand code i s := by
  obtain ⟨code, hc, -, hsink, rfl⟩ | ⟨_, _, -, -, -, -, -, rfl⟩ | ⟨_, _, _, -, -, -, -, rfl⟩ | ⟨-, -, -, rfl⟩ |
    ⟨_, -, rfl⟩ := exec_next e
  · exact ⟨code, hc, hsink, rfl⟩
  · cases ht
  · exact absurd ht hs
  · cases ht
  · exact absurd ht hs

/-- An emission step raises no fault: it keeps PHASE, or ends the frame in IDLE (R86). -/
theorem closeFrame_emitByte_phase_ne_fault {s : State} (b : Byte) (hs : s.phase ≠ .fault) :
    (closeFrame (emitByte b s)).phase ≠ .fault := by
  obtain ⟨-, h⟩ | h := closeFrame_emitByte_cases b s <;> rw [h]
  · exact Phase.noConfusion
  · exact hs

/-- A step into FAULT is the fault of the word it accepted, or the sink error, and either writes only what fault entry
writes (R98, R99). -/
theorem step_next_of_fault_entry {s t : State} (e : step s = next t) (hs : s.phase ≠ .fault)
    (ht : t.phase = .fault) :
    (∃ ag w ws code, s.offered = w :: ws ∧ code ≠ .noFault ∧ code ≠ .sinkError ∧
      t = raiseFault code w { s with agenda := ag, offered := ws }) ∨
    (∃ ag, t = sinkFails { s with agenda := ag }) := by
  obtain ⟨ag, rfl⟩ | ⟨ag, w, ws, -, ho, -, rfl⟩ | ⟨ag, w, ws, i, -, ho, hd, hx⟩ | ⟨ag, -, -, rfl⟩ |
    ⟨ag, b, -, -, rfl⟩ | ⟨ag, -, rfl⟩ | ⟨ag, -, rfl⟩ := step_cases e
  · exact absurd ht hs
  · exact .inl ⟨ag, w, ws, .illegalCmd, ho, by decide, by decide, rfl⟩
  · obtain ⟨code, hc, hsink, rfl⟩ := exec_next_of_fault_entry hx hs ht
    obtain rfl := encode_of_decode_ok hd
    exact .inl ⟨ag, _, ws, code, ho, hc, hsink, rfl⟩
  · exact absurd ht hs
  · exact absurd ht (closeFrame_emitByte_phase_ne_fault b hs)
  · exact .inr ⟨ag, rfl⟩
  · cases ht

/-! What FAULT disables (R100). -/

theorem cmdReady_of_fault {s : State} (hp : s.phase = .fault) : s.cmdReady = false := by
  simp [State.cmdReady, hp]

theorem outValid_of_fault {s : State} (hp : s.phase = .fault) : s.outValid = false := by
  simp [State.outValid, hp]

theorem enabled_command_of_fault {s : State} (hp : s.phase = .fault) : enabled .command s = false := by
  simp [enabled, cmdReady_of_fault hp]

/-- R99: the sink error is enabled in every phase but FAULT. -/
theorem enabled_sinkError_iff {s : State} : enabled .sinkError s = true ↔ s.phase ≠ .fault := by
  simp [enabled, ← faulted_iff]

theorem enabled_sinkError_of_fault {s : State} (hp : s.phase = .fault) : enabled .sinkError s = false :=
  Bool.eq_false_iff.mpr fun h => enabled_sinkError_iff.mp h hp

/-- The sink error's turn, outside FAULT (R99). -/
theorem step_sinkError {s : State} {ts : List Turn} (ha : s.agenda = .move .sinkError :: ts) (hp : s.phase ≠ .fault) :
    step s = .next (sinkFails { s with agenda := ts }) := by
  have hm : moveOf (.move .sinkError) { s with agenda := ts } = some .sinkError :=
    if_pos (enabled_sinkError_iff.mpr hp)
  simp only [step, ha, runTurn, hm, perform]

/-- The sink error's turn, in FAULT (R99). -/
theorem step_sinkError_of_fault {s : State} {ts : List Turn} (ha : s.agenda = .move .sinkError :: ts)
    (hp : s.phase = .fault) : step s = .next { s with agenda := ts } :=
  step_of_no_move ha (by simp [moveOf, enabled_sinkError_of_fault (s := { s with agenda := ts }) hp])

/-! The statements. -/

/-- Settles O23: of the cases of a step, a command, an emission and a sink error need a phase other than FAULT. -/
theorem faultIsQuiescent : Obligations.FaultIsQuiescent := by
  intro s t hp e
  have hready := cmdReady_of_fault hp
  refine ⟨hready, outValid_of_fault hp, enabled_command_of_fault hp, outValid_of_fault hp,
    enabled_sinkError_of_fault hp, ?_⟩
  obtain ⟨ag, rfl⟩ | ⟨_, _, _, hr, -⟩ | ⟨_, _, _, _, hr, -⟩ | ⟨ag, hrsp, ha, rfl⟩ | ⟨_, _, hbusy, -⟩ | ⟨_, hne, -⟩ |
    ⟨ag, hreset, rfl⟩ := step_cases e
  · exact .inl ⟨rfl, rfl, rfl, rfl, rfl, rfl, rfl, rfl, rfl, rfl, rfl, rfl⟩
  · exact absurd hr (Bool.eq_false_iff.mp hready)
  · exact absurd hr (Bool.eq_false_iff.mp hready)
  · exact .inr (.inl ⟨ag, ha, hrsp, rfl⟩)
  · cases hp.symm.trans hbusy
  · exact absurd hp hne
  · exact .inr (.inr ⟨ag, hreset, rfl⟩)

/-- Settles O24: each of the two ways into FAULT is one fault entry, with the accepted word or ENC_POS as its info. -/
theorem faultEntryIsPrecise : Obligations.FaultEntryIsPrecise := by
  intro s t e hs ht
  obtain ⟨ag, w, ws, code, ho, hc, hsink, rfl⟩ | ⟨ag, rfl⟩ := step_next_of_fault_entry e hs ht
  · exact ⟨hc, rfl, rfl, rfl, rfl, rfl, rfl, rfl, rfl, rfl, .inr ⟨hsink, ho⟩⟩
  · exact ⟨Err.noConfusion, rfl, rfl, rfl, rfl, rfl, rfl, rfl, rfl, rfl, .inl ⟨rfl, rfl, rfl⟩⟩

/-- Settles O20: the sink error's turn outside FAULT and in it. -/
theorem sinkErrorStep : Obligations.SinkErrorStep :=
  ⟨fun _ _ => step_sinkError, fun _ _ => step_sinkError_of_fault⟩

end Sys2Proof.Proofs

/-! PROOFS of the statements about the invariant of the reachable states (10_state.md, 42_frame_encoder.md), after what
each register update needs to keep it. -/

namespace Sys2Proof.Proofs

open Sys2Proof.Machine Sys2Proof.Safety Host.Outcome

/-! `Inv` over the parts of the state that none of its clauses reads. -/

theorem inv_of_environment {s : State} (h : Inv s) (ag : List Turn) (ws : List Word) (rv : Bool) (rd : Word)
    (tk : List Word) :
    Inv { s with agenda := ag, offered := ws, rspValid := rv, rspData := rd, taken := tk } := { h with }

theorem inv_agenda {s : State} (h : Inv s) (ag : List Turn) : Inv { s with agenda := ag } :=
  inv_of_environment h ag s.offered s.rspValid s.rspData s.taken

theorem inv_accepted {s : State} (h : Inv s) (ag : List Turn) (ws : List Word) : Inv (Accepted s ag ws) :=
  inv_of_environment h ag ws s.rspValid s.rspData s.taken

theorem inv_respond {s : State} (h : Inv s) (w : Word) : Inv (respond w s) :=
  inv_of_environment h s.agenda s.offered true w s.taken

theorem inv_takeResponse {s : State} (h : Inv s) : Inv (takeResponse s) :=
  inv_of_environment h s.agenda s.offered false s.rspData _

/-! `Inv` over fault entry and reset. -/

theorem inv_raiseFault {s : State} (h : Inv s) {code : Err} (hc : code ≠ .noFault) (info : Word) :
    Inv (raiseFault code info s) :=
  { h with
    err_iff_fault := iff_of_true hc rfl
    info_zero := by simp
    unconfigured_zero := by simp
    configured_nonzero := by simp
    busy_loaded := by simp }

/-- R34's reset values meet `Inv` for every FM_CAPACITY of R7's range. -/
theorem inv_resetWith {cap : Nat} (hcap : 1 ≤ cap ∧ cap ≤ 2 ^ 24 - 1) : Inv (State.resetWith cap) where
  capacity_range := hcap
  err_iff_fault := iff_of_false (by simp [State.resetWith]) (by simp [State.resetWith])
  info_zero _ := rfl
  unconfigured_zero _ := ⟨rfl, rfl⟩
  configured_nonzero := by simp [State.resetWith]
  frame_fits := Nat.zero_le _
  wrPtr_le := Nat.zero_le _
  encPos_le := Nat.zero_le _
  busy_loaded := by simp [State.resetWith]
  loaded_written i hi := absurd hi (Nat.not_lt_zero i)
  fm_canonical := rfl
  fm_inside _ _ := rfl
  out_symbols := by simp [State.resetWith]

theorem inv_resetBlock {s : State} (h : Inv s) : Inv (resetBlock s) :=
  { inv_resetWith h.capacity_range with }

/-! `Inv` over the commands' effects. -/

theorem phase_ne_fault_of_cmdReady {s : State} (h : s.cmdReady = true) : s.phase ≠ .fault := by
  obtain ⟨hp | hp, -⟩ := cmdReady_iff.mp h <;> simp [hp]

/-- R19, from one phase outside FAULT to another. -/
theorem err_iff_fault_of_ne {s : State} (h : Inv s) (hp : s.phase ≠ .fault) {p : Phase} (hp' : p ≠ .fault) :
    s.err ≠ .noFault ↔ p = .fault :=
  h.err_iff_fault.trans (iff_of_false hp hp')

/-- In UNCONFIGURED the frame is empty, so no element is written and no byte of it is emitted (R20). -/
theorem pixelCount_of_unconfigured {s : State} (h : Inv s) (hp : s.phase = .unconfigured) : s.pixelCount = 0 := by
  obtain ⟨hw, -⟩ := h.unconfigured_zero hp
  simp [State.pixelCount, hw]

theorem inv_bindDimensions {s : State} (h : Inv s) (hp : s.phase = .unconfigured) {w h' : BitVec 12} (hw : w ≠ 0#12)
    (hh : h' ≠ 0#12) (hfit : w.toNat * h'.toNat ≤ s.fmCapacity) : Inv (bindDimensions w h' s) := by
  have hn := pixelCount_of_unconfigured h hp
  have hpos : s.encPos.toNat ≤ 0 := by simpa [State.frameSize, hn] using h.encPos_le
  have hpf : s.phase ≠ .fault := by simp [hp]
  exact
    { h with
      err_iff_fault := err_iff_fault_of_ne h hpf (by simp)
      info_zero := fun _ => h.info_zero hpf
      unconfigured_zero := by simp
      configured_nonzero := fun _ => ⟨hw, hh⟩
      frame_fits := hfit
      wrPtr_le := Nat.zero_le _
      encPos_le := hpos.trans (Nat.zero_le _)
      busy_loaded := by simp
      loaded_written := fun i hi => absurd hi (Nat.not_lt_zero i)
      fm_inside := fun i _ => h.fm_inside i (hn ▸ Nat.zero_le i) }

/-- WR_PTR advances without wrapping, since FM_CAPACITY is below 2^24 (R7, R21). -/
theorem wrPtr_add_one_toNat {s : State} (h : Inv s) (hlt : s.wrPtr.toNat < s.fmCapacity) :
    (s.wrPtr + 1#24).toNat = s.wrPtr.toNat + 1 := by
  obtain ⟨-, hcap⟩ := h.capacity_range
  simp only [BitVec.toNat_add, BitVec.toNat_ofNat]
  omega

/-- A PIXEL in IDLE writes the next element of a frame that is not yet full. -/
theorem inv_storePixel {s : State} (h : Inv s) (hp : s.phase = .idle) (hne : s.wrPtr.toNat ≠ s.pixelCount)
    (px : Pixel) : Inv (storePixel px s) := by
  have hroom : s.wrPtr.toNat < s.pixelCount := Nat.lt_of_le_of_ne h.wrPtr_le hne
  have hptr := wrPtr_add_one_toNat h (hroom.trans_le h.frame_fits)
  exact
    { h with
      wrPtr_le := by rw [storePixel_wrPtr, hptr]; exact hroom
      busy_loaded := by simp [hp]
      loaded_written := fun i hi => by
        rw [storePixel_wrPtr, hptr] at hi
        rw [storePixel_fm, FrameMem.read_write]
        split
        · rfl
        · exact h.loaded_written i (by omega)
      fm_canonical := FrameMem.wf_write s.fm _ px h.fm_canonical
      fm_inside := fun i hi => by
        have hbeyond : s.pixelCount ≤ i := hi
        rw [storePixel_fm, FrameMem.read_write_other s.fm px (by omega)]
        exact h.fm_inside i hbeyond }

theorem inv_beginFrame {s : State} (h : Inv s) (hp : s.phase = .idle) (hl : s.wrPtr.toNat = s.pixelCount) :
    Inv (beginFrame s) := by
  have hpf : s.phase ≠ .fault := by simp [hp]
  exact
    { h with
      err_iff_fault := err_iff_fault_of_ne h hpf (by simp)
      info_zero := fun _ => h.info_zero hpf
      unconfigured_zero := by simp
      configured_nonzero := fun _ => h.configured_nonzero (.inl hp)
      encPos_le := Nat.zero_le _
      busy_loaded := fun _ => ⟨hl, frameSize_pos_of_idle (s := s) h hp⟩ }

/-! `Inv` over the emission step. -/

theorem sym_mem_symbolBytes (g : Group) : sym g ∈ symbolBytes := by
  revert g; decide

theorem nextByte_mem_symbolBytes {s : State} {b : Byte} (hb : nextByte s = .ok b) : b ∈ symbolBytes := by
  obtain ⟨-, px, -, rfl⟩ := frameByte_ok hb
  exact sym_mem_symbolBytes _

theorem mem_symbolBytes_of_emitted {s : State} (h : Inv s) {b : Byte} (hb : b ∈ symbolBytes) :
    ∀ x ∈ s.out ++ [b], x ∈ symbolBytes :=
  List.forall_mem_append.mpr ⟨h.out_symbols, List.forall_mem_singleton.mpr hb⟩

/-- An emission that does not end the frame leaves the block BUSY within it. -/
theorem inv_emitByte {s : State} (h : Inv s) {b : Byte} (hb : b ∈ symbolBytes)
    (hmid : s.encPos.toNat + 1 < s.frameSize) : Inv (emitByte b s) := by
  have hpos : (s.encPos + 1#27).toNat < s.frameSize := by rwa [encPos_add_one_toNat (by omega)]
  exact
    { h with
      encPos_le := hpos.le
      busy_loaded := fun hp => ⟨(h.busy_loaded hp).1, hpos⟩
      out_symbols := mem_symbolBytes_of_emitted h hb }

/-- The frame's last emission leaves the block IDLE with nothing loaded. -/
theorem inv_finishFrame_emitByte {s : State} (h : Inv s) (hp : s.phase = .busy) {b : Byte} (hb : b ∈ symbolBytes)
    (hend : s.encPos.toNat + 1 = s.frameSize) : Inv (finishFrame (emitByte b s)) := by
  have hpos : (s.encPos + 1#27).toNat = s.frameSize := (encPos_add_one_toNat (by omega)).trans hend
  have hpf : s.phase ≠ .fault := by simp [hp]
  exact
    { h with
      err_iff_fault := err_iff_fault_of_ne h hpf (by simp)
      info_zero := fun _ => h.info_zero hpf
      unconfigured_zero := by simp
      configured_nonzero := fun _ => h.configured_nonzero (.inr hp)
      wrPtr_le := Nat.zero_le _
      encPos_le := hpos.le
      busy_loaded := by simp
      loaded_written := fun i hi => absurd hi (Nat.not_lt_zero i)
      out_symbols := mem_symbolBytes_of_emitted h hb }

/-- Within a frame an emission step ends the frame or stays inside it, by ENC_POS as a number (R86). -/
theorem closeFrame_emitByte_cases_of_busy {s : State} (h : Inv s) (hp : s.phase = .busy) (b : Byte) :
    (s.encPos.toNat + 1 = s.frameSize ∧ closeFrame (emitByte b s) = finishFrame (emitByte b s)) ∨
    (s.encPos.toNat + 1 < s.frameSize ∧ closeFrame (emitByte b s) = emitByte b s) := by
  obtain ⟨-, hlt⟩ := h.busy_loaded hp
  rw [← encPos_add_one_toNat hlt]
  have hle : (s.encPos + 1#27).toNat ≤ s.frameSize := by rw [encPos_add_one_toNat hlt]; exact hlt
  exact (closeFrame_cases (emitByte b s)).imp id (And.imp_left (Nat.lt_of_le_of_ne hle))

theorem inv_closeFrame_emitByte {s : State} (h : Inv s) (hp : s.phase = .busy) {b : Byte} (hb : b ∈ symbolBytes) :
    Inv (closeFrame (emitByte b s)) := by
  obtain ⟨hend, e⟩ | ⟨hmid, e⟩ := closeFrame_emitByte_cases_of_busy h hp b <;> rw [e]
  · exact inv_finishFrame_emitByte h hp hb hend
  · exact inv_emitByte h hb hmid

/-! `Inv` over a step. -/

theorem inv_exec {i : Instr} {s t : State} (h : Inv s) (hr : s.cmdReady = true) (e : exec i s = next t) : Inv t := by
  obtain ⟨code, hc, -, -, rfl⟩ | ⟨w, h', -, hp, hw, hh, hfit, rfl⟩ | ⟨r, g, b, -, hp, hne, -, rfl⟩ |
    ⟨-, hp, hl, rfl⟩ | ⟨w, -, rfl⟩ := exec_next e
  · exact inv_raiseFault h hc _
  · exact inv_bindDimensions h hp hw hh hfit
  · exact inv_storePixel h (phase_idle_of_cmdReady hr hp) hne _
  · exact inv_beginFrame h (phase_idle_of_cmdReady hr hp) hl
  · exact inv_respond h w

/-- Settles O32, by the cases of a step: each register update keeps `Inv`. -/
theorem stepKeepsInv : Obligations.StepKeepsInv := by
  intro s t h e
  obtain ⟨ag, rfl⟩ | ⟨ag, w, ws, -, -, -, rfl⟩ | ⟨ag, w, ws, i, hr, -, -, hx⟩ | ⟨ag, -, -, rfl⟩ |
    ⟨ag, b, hp, hb, rfl⟩ | ⟨ag, -, rfl⟩ | ⟨ag, -, rfl⟩ := step_cases e
  · exact inv_agenda h ag
  · exact inv_raiseFault (inv_accepted h ag ws) Err.noConfusion w
  · exact inv_exec (inv_accepted h ag ws) hr hx
  · exact inv_takeResponse (inv_agenda h ag)
  · exact inv_closeFrame_emitByte (inv_agenda h ag) hp (nextByte_mem_symbolBytes hb)
  · exact inv_raiseFault (inv_agenda h ag) Err.noConfusion _
  · exact inv_resetBlock (inv_agenda h ag)

/-- Settles O33: R34's values meet `Inv` for every capacity of R7's range, and FM_CAPACITY is in it. -/
theorem resetMeetsInv : Obligations.ResetMeetsInv :=
  ⟨inv_resetWith ⟨Nat.le_add_left 1 _, Config.fmCapacityLessOne.isLt⟩, fun _ hlo hhi => inv_resetWith ⟨hlo, hhi⟩⟩

end Sys2Proof.Proofs

/-! PROOFS of the statements about what the invariant gives: whole frames in OUT (42_frame_encoder.md), and a machine
that never stops (60_exceptions.md). -/

namespace Sys2Proof.Proofs

open Sys2Proof.Machine Sys2Proof.Safety Host.Outcome

/-! Whole frames in OUT (R88), phase by phase. -/

theorem wholeFrames_iff_of_unconfigured {s : State} (hp : s.phase = .unconfigured) :
    WholeFrames s ↔ s.frameCount = 0#32 ∧ s.out = [] := by
  simp [WholeFrames, hp]

theorem wholeFrames_iff_of_idle {s : State} (hp : s.phase = .idle) :
    WholeFrames s ↔ ∃ k, s.frameCount = BitVec.ofNat 32 k ∧ s.out.length = k * s.frameSize := by
  simp only [WholeFrames, hp]

theorem wholeFrames_iff_of_busy {s : State} (hp : s.phase = .busy) :
    WholeFrames s ↔ ∃ k, s.frameCount = BitVec.ofNat 32 k ∧ s.out.length = k * s.frameSize + s.encPos.toNat := by
  simp only [WholeFrames, hp]

theorem wholeFrames_iff_of_fault {s : State} (hp : s.phase = .fault) :
    WholeFrames s ↔ ∃ k, s.frameCount = BitVec.ofNat 32 k ∧ (s.out.length = k * s.frameSize ∨
      (s.encPos.toNat < s.frameSize ∧ s.out.length = k * s.frameSize + s.encPos.toNat)) := by
  simp only [WholeFrames, hp]

/-! Whole frames over each register update. -/

/-- A fault while BUSY cuts the frame in flight short; elsewhere no frame is in flight. -/
theorem wholeFrames_raiseFault {s : State} (hinv : Inv s) (h : WholeFrames s) (hp : s.phase ≠ .fault) (code : Err)
    (info : Word) : WholeFrames (raiseFault code info s) := by
  rw [wholeFrames_iff_of_fault rfl]
  match hs : s.phase with
  | .unconfigured =>
    obtain ⟨hcount, hout⟩ := (wholeFrames_iff_of_unconfigured hs).mp h
    exact ⟨0, hcount, .inl (by simp [hout])⟩
  | .idle =>
    obtain ⟨k, hcount, hlen⟩ := (wholeFrames_iff_of_idle hs).mp h
    exact ⟨k, hcount, .inl hlen⟩
  | .busy =>
    obtain ⟨k, hcount, hlen⟩ := (wholeFrames_iff_of_busy hs).mp h
    exact ⟨k, hcount, .inr ⟨(hinv.busy_loaded hs).2, hlen⟩⟩
  | .fault => exact absurd hs hp

theorem wholeFrames_bindDimensions {s : State} (h : WholeFrames s) (hp : s.phase = .unconfigured) (w h' : BitVec 12) :
    WholeFrames (bindDimensions w h' s) := by
  obtain ⟨hcount, hout⟩ := (wholeFrames_iff_of_unconfigured hp).mp h
  exact (wholeFrames_iff_of_idle rfl).mpr ⟨0, hcount, by simp [hout]⟩

theorem wholeFrames_beginFrame {s : State} (h : WholeFrames s) (hp : s.phase = .idle) :
    WholeFrames (beginFrame s) := by
  obtain ⟨k, hcount, hlen⟩ := (wholeFrames_iff_of_idle hp).mp h
  exact (wholeFrames_iff_of_busy rfl).mpr ⟨k, hcount, hlen⟩

theorem wholeFrames_closeFrame_emitByte {s : State} (hinv : Inv s) (h : WholeFrames s) (hp : s.phase = .busy)
    (b : Byte) : WholeFrames (closeFrame (emitByte b s)) := by
  obtain ⟨k, hcount, hlen⟩ := (wholeFrames_iff_of_busy hp).mp h
  have hlt := (hinv.busy_loaded hp).2
  obtain ⟨hend, e⟩ | ⟨-, e⟩ := closeFrame_emitByte_cases_of_busy hinv hp b <;> rw [e]
  · refine (wholeFrames_iff_of_idle rfl).mpr ⟨k + 1, ?_, ?_⟩
    · rw [finishFrame_frameCount, emitByte_frameCount, hcount, BitVec.ofNat_add]
    · rw [finishFrame_out, emitByte_out, finishFrame_frameSize, emitByte_frameSize, List.length_append, hlen,
        Nat.succ_mul, ← hend]
      rfl
  · refine (wholeFrames_iff_of_busy (s := emitByte b s) hp).mpr ⟨k, hcount, ?_⟩
    rw [emitByte_out, emitByte_encPos, emitByte_frameSize, List.length_append, hlen, encPos_add_one_toNat hlt]
    rfl

theorem wholeFrames_of_reset_values {s : State} (hp : s.phase = .unconfigured) (hcount : s.frameCount = 0#32)
    (hout : s.out = []) : WholeFrames s :=
  (wholeFrames_iff_of_unconfigured hp).mpr ⟨hcount, hout⟩

theorem wholeFrames_exec {i : Instr} {s t : State} (hinv : Inv s) (h : WholeFrames s) (hr : s.cmdReady = true)
    (e : exec i s = next t) : WholeFrames t := by
  obtain ⟨code, -, -, -, rfl⟩ | ⟨w, h', -, hp, -, -, -, rfl⟩ | ⟨r, g, b, -, -, -, -, rfl⟩ | ⟨-, hp, -, rfl⟩ |
    ⟨w, -, rfl⟩ := exec_next e
  · exact wholeFrames_raiseFault hinv h (phase_ne_fault_of_cmdReady hr) code _
  · exact wholeFrames_bindDimensions h hp w h'
  · exact h
  · exact wholeFrames_beginFrame h (phase_idle_of_cmdReady hr hp)
  · exact h

/-- Settles O35, by the cases of a step: each register update keeps the whole frames. -/
theorem stepKeepsWholeFrames : Obligations.StepKeepsWholeFrames := by
  intro s t hinv h e
  obtain ⟨ag, rfl⟩ | ⟨ag, w, ws, hr, -, -, rfl⟩ | ⟨ag, w, ws, i, hr, -, -, hx⟩ | ⟨ag, -, -, rfl⟩ |
    ⟨ag, b, hp, -, rfl⟩ | ⟨ag, hp, rfl⟩ | ⟨ag, -, rfl⟩ := step_cases e
  · exact h
  · exact wholeFrames_raiseFault (inv_accepted hinv ag ws) h (phase_ne_fault_of_cmdReady hr) _ w
  · exact wholeFrames_exec (inv_accepted hinv ag ws) h hr hx
  · exact h
  · exact wholeFrames_closeFrame_emitByte (inv_agenda hinv ag) h hp b
  · exact wholeFrames_raiseFault (inv_agenda hinv ag) h hp _ _
  · exact wholeFrames_of_reset_values rfl rfl rfl

/-- Settles O36: at reset no frame is counted and OUT is empty. -/
theorem resetMeetsWholeFrames : Obligations.ResetMeetsWholeFrames := wholeFrames_of_reset_values rfl rfl rfl

/-! What the invariant excludes: the three stops of the model. -/

/-- A BUSY block has its next byte: ENC_POS is inside the frame, and every element of it was written. -/
theorem exists_nextByte_of_busy {s : State} (h : Inv s) (hp : s.phase = .busy) : ∃ b, nextByte s = .ok b := by
  obtain ⟨hl, hlt⟩ := h.busy_loaded hp
  have hj : s.encPos.toNat / 8 < s.pixelCount := Nat.div_lt_of_lt_mul hlt
  obtain ⟨px, hpx⟩ := Option.isSome_iff_exists.mp (h.loaded_written _ ((ridx_lt hj).trans_eq hl.symm))
  exact ⟨_, frameByte_of_read hj hpx⟩

theorem exists_emitStep_next {s : State} (h : Inv s) (hp : s.phase = .busy) : ∃ t, emitStep s = next t := by
  obtain ⟨b, hb⟩ := exists_nextByte_of_busy h hp
  exact ⟨closeFrame (emitByte b s), by simp only [emitStep, hb]⟩

/-- WR_PTR is an index of the frame memory unless the frame is full, so a PIXEL goes on. -/
theorem exists_execPixel_next {s : State} (h : Inv s) (r g b : Byte) : ∃ t, execPixel r g b s = next t := by
  unfold execPixel
  split
  · exact ⟨_, rfl⟩
  · split
    · exact ⟨_, rfl⟩
    · next hne =>
      have hroom : s.wrPtr.toNat < s.fmCapacity := (Nat.lt_of_le_of_ne h.wrPtr_le hne).trans_le h.frame_fits
      exact ⟨_, if_neg (Nat.not_le.mpr hroom)⟩

theorem exists_exec_next {s : State} (h : Inv s) (i : Instr) : ∃ t, exec i s = next t := by
  cases i with
  | config w h' => simp only [exec, execConfig]; split_ifs <;> exact ⟨_, rfl⟩
  | pixel r g b => exact exists_execPixel_next h r g b
  | encode => simp only [exec, execEncode]; split_ifs <;> exact ⟨_, rfl⟩
  | cbLookup ch val slot => simp only [exec, execCbLookup]; split <;> exact ⟨_, rfl⟩
  | mapLookup p => simp only [exec, execMapLookup]; split_ifs <;> exact ⟨_, rfl⟩

theorem exists_acceptCommand_next {s : State} (h : Inv s) : ∃ t, acceptCommand s = next t := by
  cases ho : s.offered with
  | nil => exact ⟨s, by simp only [acceptCommand, fetchWord, ho]⟩
  | cons w ws =>
    cases hd : decode w with
    | error r => exact ⟨_, acceptCommand_of_illegal ho hd⟩
    | ok i => rw [acceptCommand_of_legal ho hd]; exact exists_exec_next (inv_accepted h s.agenda ws) i

theorem exists_perform_next {s : State} {m : Move} (h : Inv s) (hm : enabled m s = true) :
    ∃ t, perform m s = next t := by
  cases m with
  | command => exact exists_acceptCommand_next h
  | emit => exact exists_emitStep_next h (outValid_iff.mp hm)
  | take | sinkError | reset => exact ⟨_, rfl⟩

/-- Settles O34: no turn, or a turn without a move, goes on by definition, and an enabled move goes on under `Inv`. -/
theorem machineNeverStops : Obligations.MachineNeverStops := by
  intro s h
  cases ha : s.agenda with
  | nil => exact ⟨s, step_of_no_turn ha⟩
  | cons turn ts =>
    cases hm : moveOf turn { s with agenda := ts } with
    | none => exact ⟨_, step_of_no_move ha hm⟩
    | some m =>
      obtain ⟨t, ht⟩ := exists_perform_next (inv_agenda h ts) (moveOf_enabled hm)
      exact ⟨t, by simp only [step, ha, runTurn, hm, ht]⟩

end Sys2Proof.Proofs

/-! PROOFS of the remaining statements about the encoding and the steps of single turns: the command port, the cycle,
the response slot, reset, and the model's own stops, after the move that each turn takes. -/

namespace Sys2Proof.Proofs

open Sys2Proof.Machine Sys2Proof.Safety Host.Outcome

/-! The encoding (R59). -/

/-- Settles O1: a command's word holds each field at its own bits. -/
theorem decodeInvertsEncode : Obligations.DecodeInvertsEncode := decode_encode

/-- Settles O2: a legal word is its fields one after another. -/
theorem encodeInvertsDecode : Obligations.EncodeInvertsDecode := fun _ _ => encode_of_decode_ok

/-- Settles O5: each sample word is its command's encoding, which decodes to the command. -/
theorem sampleWordsDecode : Obligations.SampleWordsDecode :=
  ⟨decode_encode (.config 2#12 2#12), decode_encode (.pixel 0x12#8 0x34#8 0x56#8), decode_encode .encode,
    decode_encode (.cbLookup 2#2 0xFF#8 7#3), decode_encode (.mapLookup 0xFFFFFF#24)⟩

/-! The move of a turn. -/

theorem step_of_moveOf {s : State} {turn : Turn} {ts : List Turn} {m : Move} (ha : s.agenda = turn :: ts)
    (hm : moveOf turn { s with agenda := ts } = some m) : step s = perform m { s with agenda := ts } := by
  simp only [step, ha, runTurn, hm]

/-- A single move's turn takes no move while the move is not enabled (log 2). -/
theorem step_of_not_enabled {s : State} {m : Move} {ts : List Turn} (ha : s.agenda = .move m :: ts)
    (hm : enabled m { s with agenda := ts } = false) : step s = .next { s with agenda := ts } :=
  step_of_no_move ha (if_neg (Bool.eq_false_iff.mp hm))

/-- The reset turn, in every phase (R114). -/
theorem step_reset {s : State} {ts : List Turn} (ha : s.agenda = .move .reset :: ts) :
    step s = .next (resetBlock { s with agenda := ts }) := step_of_moveOf ha rfl

/-- The host's take of a pending response (R28). -/
theorem step_take {s : State} {ts : List Turn} (ha : s.agenda = .move .take :: ts) (hrsp : s.rspValid = true) :
    step s = .next (takeResponse { s with agenda := ts }) := step_of_moveOf ha (if_pos hrsp)

theorem emitStep_of_error {s : State} {f : Machine.Fault} (hb : nextByte s = .error f) : emitStep s = .fault f := by
  simp only [emitStep, hb]

theorem step_emit_of_error {s : State} {ts : List Turn} {f : Machine.Fault} (ha : s.agenda = .move .emit :: ts)
    (hp : s.phase = .busy) (hb : nextByte s = .error f) : step s = .fault f :=
  (step_of_moveOf ha (if_pos (outValid_iff.mpr hp))).trans (emitStep_of_error hb)

/-! The command port (R54, R82). -/

/-- R82: an accepted legal word runs its command. -/
theorem step_command_of_legal {s : State} {w : Word} {i : Instr} {ts : List Turn} {ws : List Word}
    (hd : decode w = .ok i) (ha : s.agenda = .move .command :: ts) (ho : s.offered = w :: ws)
    (hr : s.cmdReady = true) : step s = exec i (Accepted s ts ws) :=
  (step_command ha ho hr).trans (acceptCommand_of_legal ho hd)

theorem decode_tableWord_of_decodeTableWord {nbits w : Nat} {i : Instr} (h : decodeTableWord nbits w = some i) :
    decode (tableWord nbits w) = .ok i := by
  unfold decodeTableWord at h
  split at h
  · split at h
    · cases h; assumption
    · cases h
  · cases h

/-- R17: the phases and the response that hold cmd_ready at 0. -/
theorem cmdReady_eq_false_iff {s : State} :
    s.cmdReady = false ↔ s.phase = .busy ∨ s.phase = .fault ∨ s.rspValid = true := by
  rw [Bool.eq_false_iff, ne_eq, cmdReady_iff]
  cases s.phase <;> simp

theorem enabled_command_of_nothing_offered {s : State} (ho : s.offered = []) : enabled .command s = false := by
  simp [enabled, State.cmdValid, ho]

/-- Settles O6: the accepted word runs its command, and `withFetchWord` puts one such word and turn in front. -/
theorem stepRunsDecodedCommand : Obligations.StepRunsDecodedCommand :=
  ⟨fun _ _ _ _ _ hd ha ho hr => step_command_of_legal hd ha ho hr,
    fun _ _ _ _ hd hr => step_command_of_legal (decode_tableWord_of_decodeTableWord hd) rfl rfl hr⟩

/-- Settles O7: the phases without cmd_ready, in which a command turn takes no move. -/
theorem stalledCommandStaysOffered : Obligations.StalledCommandStaysOffered :=
  ⟨fun _ => cmdReady_eq_false_iff, fun _ _ => step_command_of_not_ready⟩

/-- Settles O8: with no turn nothing moves, and each of the four turns is one whose move is not enabled. -/
theorem disabledTurnChangesNothing : Obligations.DisabledTurnChangesNothing :=
  ⟨fun _ => step_of_no_turn, fun _ _ ha hrsp => step_of_not_enabled ha hrsp,
    fun _ _ ha hp => step_of_not_enabled ha (decide_eq_false hp), fun _ _ => step_sinkError_of_fault,
    fun _ _ ha ho => step_of_not_enabled ha (enabled_command_of_nothing_offered ho)⟩

/-! The cycle (R97): which single move's turn it stands for. -/

theorem not_enabled_command_of_enabled_emit {s : State} (h : enabled .emit s = true) : enabled .command s = false := by
  simp [enabled, cmdReady_of_busy (outValid_iff.mp h)]

/-- Two turns that take the same move make the same step. -/
theorem step_eq_of_moveOf_eq {s : State} {turn turn' : Turn} {ts : List Turn} (ha : s.agenda = turn :: ts)
    (hm : moveOf turn { s with agenda := ts } = moveOf turn' { s with agenda := ts }) :
    step s = step { s with agenda := turn' :: ts } := by
  simp only [step, ha, runTurn, hm]

section cycle
variable {c : Cycle} {s : State}

theorem moveOf_cycle_of_reset (hr : c.reset = true) : moveOf (.cycle c) s = moveOf (.move .reset) s := by
  simp [moveOf, arbitrate, enabled, hr]

theorem moveOf_cycle_of_sinkError (hr : c.reset = false) (he : c.sinkError = true) (hp : s.phase ≠ .fault) :
    moveOf (.cycle c) s = moveOf (.move .sinkError) s := by
  simp [moveOf, arbitrate, hr, he, enabled_sinkError_iff.mpr hp]

/-- The sink's error wins nothing without the error, or in FAULT, where it is not enabled (R99). -/
theorem sinkError_loses (he : c.sinkError = false ∨ s.phase = .fault) :
    (c.sinkError && enabled .sinkError s) = false := by
  obtain he | hp := he
  · rw [he, Bool.false_and]
  · rw [enabled_sinkError_of_fault hp, Bool.and_false]

theorem moveOf_cycle_of_emit (hr : c.reset = false) (he : c.sinkError = false ∨ s.phase = .fault)
    (hp : s.phase = .busy) (hs : c.sinkReady = true) : moveOf (.cycle c) s = moveOf (.move .emit) s := by
  have hen : enabled .emit s = true := outValid_iff.mpr hp
  simp [moveOf, arbitrate, hr, sinkError_loses he, hen, hs]

theorem moveOf_cycle_of_command (hr : c.reset = false) (he : c.sinkError = false ∨ s.phase = .fault)
    (h : ¬ (s.phase = .busy ∧ c.sinkReady = true)) : moveOf (.cycle c) s = moveOf (.move .command) s := by
  have hemit : ¬ (c.sinkReady && enabled .emit s) = true := by
    rw [Bool.and_eq_true]; exact fun ⟨hs, hp⟩ => h ⟨outValid_iff.mp hp, hs⟩
  simp only [moveOf, arbitrate, hr, sinkError_loses he, if_neg hemit, Bool.false_eq_true, if_false]
end cycle

/-- Settles O9: by R97's priority a cycle takes the move of one single turn, and neither a reset nor a sink error
accepts a word. -/
theorem cyclePriority : Obligations.CyclePriority := by
  refine ⟨fun s ⟨hemit, hcmd⟩ => ?disjoint, fun s c ts ha hr => step_eq_of_moveOf_eq ha (moveOf_cycle_of_reset hr),
    fun s c ts ha hr he hp => step_eq_of_moveOf_eq ha (moveOf_cycle_of_sinkError hr he hp),
    fun s c ts ha hr he hp hs => step_eq_of_moveOf_eq ha (moveOf_cycle_of_emit hr he hp hs),
    fun s c ts ha hr he h => step_eq_of_moveOf_eq ha (moveOf_cycle_of_command hr he h),
    fun s t c ts ha hwin e => ?offered⟩
  case disjoint => exact Bool.eq_false_iff.mp (not_enabled_command_of_enabled_emit hemit) hcmd
  case offered =>
    cases hr : c.reset with
    | true =>
      have hstep := (step_eq_of_moveOf_eq ha (moveOf_cycle_of_reset hr)).trans (step_reset rfl)
      rw [← next_inj (hstep.symm.trans e), resetBlock_offered]
    | false =>
      obtain ⟨he, hp⟩ := hwin.resolve_left (by simp [hr])
      have hstep := (step_eq_of_moveOf_eq ha (moveOf_cycle_of_sinkError hr he hp)).trans (step_sinkError rfl hp)
      rw [← next_inj (hstep.symm.trans e), sinkFails_offered]

/-! PIXEL's meaning (R84), with its checks in R96's order. -/

theorem exec_pixel_of_unconfigured {s : State} (hp : s.phase = .unconfigured) (r g b : Byte) :
    exec (.pixel r g b) s = .next (faultCommand .notConfigured (.pixel r g b) s) := by
  rw [exec, execPixel, if_pos hp]

theorem exec_pixel_of_full {s : State} (hp : s.phase ≠ .unconfigured) (hfull : s.wrPtr.toNat = s.pixelCount)
    (r g b : Byte) : exec (.pixel r g b) s = .next (faultCommand .frameOverflow (.pixel r g b) s) := by
  rw [exec, execPixel, if_neg hp, if_pos hfull]

theorem exec_pixel_of_absent {s : State} (hp : s.phase ≠ .unconfigured) (hne : s.wrPtr.toNat ≠ s.pixelCount)
    (habsent : s.fmCapacity ≤ s.wrPtr.toNat) (r g b : Byte) : exec (.pixel r g b) s = .fault .elementAbsent := by
  rw [exec, execPixel, if_neg hp, if_neg hne, if_pos habsent]

theorem exec_pixel_of_room {s : State} (hp : s.phase ≠ .unconfigured) (hne : s.wrPtr.toNat ≠ s.pixelCount)
    (hroom : s.wrPtr.toNat < s.fmCapacity) (r g b : Byte) :
    exec (.pixel r g b) s = .next (storePixel (pixelOf r g b) s) := by
  rw [exec, execPixel, if_neg hp, if_neg hne, if_neg (Nat.not_le.mpr hroom)]

/-- Settles O13: PIXEL's outcomes check by check, a write seen through a read, and the acceptance of every command's
word. -/
theorem pixelCommand : Obligations.PixelCommand := by
  refine ⟨fun r g b s _ hp => exec_pixel_of_unconfigured hp r g b,
    fun r g b s _ hp hfull => exec_pixel_of_full (by simp [hp]) hfull r g b, ?stores,
    fun r g b s _ hp hne habsent => exec_pixel_of_absent (by simp [hp]) hne habsent r g b,
    fun w k _ => Nat.div_add_mod' k w, fun r g b => acceptedOnlyWhenReady _,
    reservedBitFaults_of_decode fun _ => decode_of_opcode_pixel⟩
  case stores =>
    intro r g b s _ hp hne hroom
    obtain ⟨hred, hgreen, hblue⟩ := pixelOf_channels r g b
    exact ⟨_, exec_pixel_of_room (by simp [hp]) hne hroom r g b,
      ⟨_, FrameMem.read_write_same _ _ _, hred, hgreen, hblue⟩, fun a ha => FrameMem.read_write_other _ _ ha⟩

/-! The response slot (R28). -/

/-- Settles O19: the take's turn, the port without cmd_ready, the two lookups, and fault entry. -/
theorem responseSlot : Obligations.ResponseSlot := by
  refine ⟨fun s ts => step_take, fun s ts ha hrsp => step_of_not_enabled ha hrsp,
    fun s ts ha hrsp => step_command_of_not_ready ha (cmdReady_eq_false_iff.mpr (.inr (.inr hrsp))),
    fun ch val slot s t _ e hp => ?codebook, fun p s t _ e hp => ?map, fun s t e hs ht => ?fault⟩
  case codebook =>
    obtain ⟨-, rfl⟩ | ⟨c, hc, rfl⟩ := execCbLookup_next e
    · exact absurd rfl hp
    · exact ⟨c, hc, by rw [byteResponse_eq_setWidth]; rfl⟩
  case map =>
    obtain ⟨-, rfl⟩ | ⟨-, -, rfl⟩ | ⟨-, -, rfl⟩ := execMapLookup_next e
    · exact absurd rfl hp
    · exact absurd rfl hp
    · rfl
  case fault =>
    obtain ⟨ag, w, ws, code, -, -, -, rfl⟩ | ⟨ag, rfl⟩ := step_next_of_fault_entry e hs ht
    · exact ⟨rfl, rfl⟩
    · exact ⟨rfl, rfl⟩

theorem exists_channelOf {ch : BitVec 2} (h : ch ≠ 3#2) : ∃ c, channelOf ch = some c :=
  Option.isSome_iff_exists.mp (by decide +revert)

/-- Settles O39: the response is a function of the operands. -/
theorem codebookIndependentOfState : Obligations.CodebookIndependentOfState := by
  intro ch val slot s s' t t' hch e e'
  obtain ⟨c, hc⟩ := exists_channelOf hch
  rw [exec_cbLookup_of_channel hc] at e e'
  rw [← next_inj e, ← next_inj e']
  exact ⟨rfl, rfl, rfl⟩

/-! The model's own stops of an emission (log 4, log 5). -/

theorem frameByte_of_outside {w n j : Nat} (h : n ≤ j / 8) (m : FrameMem) :
    frameByte w n m j = .error .addressUndefined := if_neg (Nat.not_lt.mpr h)

theorem frameByte_of_unwritten {w n j : Nat} {m : FrameMem} (hj : j / 8 < n)
    (hr : FrameMem.read m (ridx w (j / 8)) = none) : frameByte w n m j = .error .elementUnwritten := by
  simp only [frameByte, if_pos hj, hr]

/-- Settles O18: the two ways in which the next byte is undefined. -/
theorem emissionStopsWithoutElement : Obligations.EmissionStopsWithoutElement :=
  ⟨fun s _ ha hp hj => step_emit_of_error ha hp (frameByte_of_outside hj s.fm),
    fun _ _ ha hp hj hr => step_emit_of_error ha hp (frameByte_of_unwritten hj hr)⟩

/-! Reset (R114, R115). -/

/-- Settles O21: the reset turn, and R34's value of each field. -/
theorem resetStep : Obligations.ResetStep := fun _ _ ha =>
  ⟨_, step_reset ha, rfl, rfl, rfl, rfl, rfl, rfl, rfl, rfl, rfl, rfl, fun _ => rfl, rfl, rfl, rfl⟩

/-- Settles O22: the reset turn's records, and the eight registers at reset. -/
theorem resetKeepsOfferedAndSentBytes : Obligations.ResetKeepsOfferedAndSentBytes :=
  ⟨fun _ _ ha => ⟨_, step_reset ha, rfl, rfl, rfl, rfl⟩, by decide⟩

end Sys2Proof.Proofs

/-! PROOFS of the statements about which step may write which part of the state, and in which order two steps may come,
after the fields that a command and the end of a frame leave alone. -/

namespace Sys2Proof.Proofs

open Sys2Proof.Machine Sys2Proof.Safety Host.Outcome

/-! The end of a frame (R86) writes PHASE, WR_PTR and FRAME_COUNT alone. -/

section closeFrame
variable (s : State)

@[simp] theorem closeFrame_width : (closeFrame s).width = s.width := by unfold closeFrame; split <;> rfl
@[simp] theorem closeFrame_height : (closeFrame s).height = s.height := by unfold closeFrame; split <;> rfl
@[simp] theorem closeFrame_encPos : (closeFrame s).encPos = s.encPos := by unfold closeFrame; split <;> rfl
@[simp] theorem closeFrame_fm : (closeFrame s).fm = s.fm := by unfold closeFrame; split <;> rfl
@[simp] theorem closeFrame_offered : (closeFrame s).offered = s.offered := by unfold closeFrame; split <;> rfl
@[simp] theorem closeFrame_rspValid : (closeFrame s).rspValid = s.rspValid := by unfold closeFrame; split <;> rfl

@[simp] theorem closeFrame_agenda : (closeFrame s).agenda = s.agenda := by unfold closeFrame; split <;> rfl

/-- Which form the end of a frame takes is read from the block's own fields. -/
theorem closeFrame_with_agenda (ts : List Turn) :
    closeFrame { s with agenda := ts } = { closeFrame s with agenda := ts } := by
  obtain ⟨h, e⟩ | ⟨h, e⟩ := closeFrame_cases s <;> rw [e]
  · exact if_pos h
  · exact if_neg h

theorem closeFrame_takeResponse : closeFrame (takeResponse s) = takeResponse (closeFrame s) := by
  obtain ⟨h, e⟩ | ⟨h, e⟩ := closeFrame_cases s <;> rw [e]
  · exact if_pos h
  · exact if_neg h
end closeFrame

/-! What a command leaves alone. -/

theorem exec_next_offered {i : Instr} {s t : State} (e : exec i s = next t) : t.offered = s.offered := by
  obtain ⟨_, -, -, -, rfl⟩ | ⟨_, _, -, -, -, -, -, rfl⟩ | ⟨_, _, _, -, -, -, -, rfl⟩ | ⟨-, -, -, rfl⟩ | ⟨_, -, rfl⟩ :=
    exec_next e <;> rfl

/-- Only CONFIG writes W and H (R20). -/
theorem exec_next_dimensions {i : Instr} {s t : State} (e : exec i s = next t) :
    (t.width = s.width ∧ t.height = s.height) ∨
    (s.phase = .unconfigured ∧ t.phase = .idle ∧ i = .config t.width t.height) := by
  obtain ⟨_, -, -, -, rfl⟩ | ⟨w, h, hi, hp, -, -, -, rfl⟩ | ⟨_, _, _, -, -, -, -, rfl⟩ | ⟨-, -, -, rfl⟩ |
    ⟨_, -, rfl⟩ := exec_next e
  · exact .inl ⟨rfl, rfl⟩
  · exact .inr ⟨hp, rfl, hi⟩
  · exact .inl ⟨rfl, rfl⟩
  · exact .inl ⟨rfl, rfl⟩
  · exact .inl ⟨rfl, rfl⟩

/-- No command writes OUT, and only ENCODE writes ENC_POS (R24, R39). -/
theorem exec_next_out {i : Instr} {s t : State} (e : exec i s = next t) :
    t.out = s.out ∧ (t.encPos = s.encPos ∨ (s.phase ≠ .unconfigured ∧ t.phase = .busy ∧ t.encPos = 0#27)) := by
  obtain ⟨_, -, -, -, rfl⟩ | ⟨_, _, -, -, -, -, -, rfl⟩ | ⟨_, _, _, -, -, -, -, rfl⟩ | ⟨-, hp, -, rfl⟩ | ⟨_, -, rfl⟩ :=
    exec_next e
  · exact ⟨rfl, .inl rfl⟩
  · exact ⟨rfl, .inl rfl⟩
  · exact ⟨rfl, .inl rfl⟩
  · exact ⟨rfl, .inr ⟨hp, rfl, rfl⟩⟩
  · exact ⟨rfl, .inl rfl⟩

/-- Only PIXEL writes the frame memory, at WR_PTR, and advances WR_PTR by 1 (R38). -/
theorem exec_next_fm {i : Instr} {s t : State} (e : exec i s = next t) :
    t.fm = s.fm ∨ ∃ r g b, i = .pixel r g b ∧ s.phase ≠ .unconfigured ∧ t.wrPtr = s.wrPtr + 1#24 ∧
      t.fm = FrameMem.write s.fm s.wrPtr.toNat (pixelOf r g b) := by
  obtain ⟨_, -, -, -, rfl⟩ | ⟨_, _, -, -, -, -, -, rfl⟩ | ⟨r, g, b, hi, hp, -, -, rfl⟩ | ⟨-, -, -, rfl⟩ | ⟨_, -, rfl⟩ :=
    exec_next e
  · exact .inl rfl
  · exact .inl rfl
  · exact .inr ⟨r, g, b, hi, hp, rfl, rfl⟩
  · exact .inl rfl
  · exact .inl rfl

/-! The statements. -/

/-- Settles O26, by the cases of a step: only a word's acceptance touches the offered words, and it takes the head. -/
theorem commandsAcceptedInOrder : Obligations.CommandsAcceptedInOrder := by
  intro s t e
  obtain ⟨ag, rfl⟩ | ⟨ag, w, ws, hr, ho, -, rfl⟩ | ⟨ag, w, ws, i, hr, ho, -, hx⟩ | ⟨ag, -, -, rfl⟩ |
    ⟨ag, b, -, -, rfl⟩ | ⟨ag, -, rfl⟩ | ⟨ag, -, rfl⟩ := step_cases e
  · exact .inl rfl
  · exact .inr ⟨hr, w, ho⟩
  · exact .inr ⟨hr, w, by rw [exec_next_offered hx, ho]⟩
  · exact .inl rfl
  · exact .inl (by simp)
  · exact .inl rfl
  · exact .inl rfl

/-- Settles O28, by the cases of a step: only CONFIG and reset write W and H. -/
theorem dimensionsFixedForSession : Obligations.DimensionsFixedForSession := by
  intro s t e hne
  have hchanged : ¬ (t.width = s.width ∧ t.height = s.height) := by tauto
  obtain ⟨ag, rfl⟩ | ⟨ag, w, ws, -, -, -, rfl⟩ | ⟨ag, w, ws, i, -, ho, hd, hx⟩ | ⟨ag, -, -, rfl⟩ |
    ⟨ag, b, -, -, rfl⟩ | ⟨ag, -, rfl⟩ | ⟨ag, hreset, rfl⟩ := step_cases e
  · exact absurd ⟨rfl, rfl⟩ hchanged
  · exact absurd ⟨rfl, rfl⟩ hchanged
  · obtain hsame | ⟨hu, hi, rfl⟩ := exec_next_dimensions hx
    · exact absurd hsame hchanged
    · exact .inl ⟨hu, hi, ws, by rw [ho, encode_of_decode_ok hd]⟩
  · exact absurd ⟨rfl, rfl⟩ hchanged
  · exact absurd ⟨closeFrame_width _, closeFrame_height _⟩ hchanged
  · exact absurd ⟨rfl, rfl⟩ hchanged
  · exact .inr ⟨rfl, rfl, ag, hreset⟩

/-- Settles O30, by the cases of a step: only an emission and reset write OUT, and besides them only ENCODE writes
ENC_POS. -/
theorem outGrowsByEmissionOnly : Obligations.OutGrowsByEmissionOnly := by
  intro s t e
  obtain ⟨ag, rfl⟩ | ⟨ag, w, ws, -, -, -, rfl⟩ | ⟨ag, w, ws, i, hr, -, -, hx⟩ | ⟨ag, -, -, rfl⟩ |
    ⟨ag, b, hp, -, rfl⟩ | ⟨ag, -, rfl⟩ | ⟨ag, hreset, rfl⟩ := step_cases e
  · exact .inl ⟨rfl, rfl⟩
  · exact .inl ⟨rfl, rfl⟩
  · obtain ⟨hout, hpos | ⟨hu, hb, hpos⟩⟩ := exec_next_out hx
    · exact .inl ⟨hout, hpos⟩
    · exact .inr (.inl ⟨hout, phase_idle_of_cmdReady hr hu, hb, hpos⟩)
  · exact .inl ⟨rfl, rfl⟩
  · exact .inr (.inr (.inl ⟨hp, ⟨b, closeFrame_emitByte_out b _⟩, closeFrame_encPos _⟩))
  · exact .inl ⟨rfl, rfl⟩
  · exact .inr (.inr (.inr ⟨rfl, rfl, ag, hreset⟩))

/-- Settles O31, by the cases of a step: only PIXEL and reset write the frame memory. -/
theorem onlyPixelWritesFrameMemory : Obligations.OnlyPixelWritesFrameMemory := by
  intro s t e
  obtain ⟨ag, rfl⟩ | ⟨ag, w, ws, -, -, -, rfl⟩ | ⟨ag, w, ws, i, hr, ho, hd, hx⟩ | ⟨ag, -, -, rfl⟩ |
    ⟨ag, b, -, -, rfl⟩ | ⟨ag, -, rfl⟩ | ⟨ag, hreset, rfl⟩ := step_cases e
  · exact .inl fun _ => rfl
  · exact .inl fun _ => rfl
  · obtain hfm | ⟨r, g, b, rfl, hu, hptr, hfm⟩ := exec_next_fm hx
    · exact .inl fun i => by rw [hfm]
    · refine .inr (.inl ⟨phase_idle_of_cmdReady hr hu, hptr, r, g, b, ws, by rw [ho, encode_of_decode_ok hd], ?_⟩)
      rw [hfm]
      exact ⟨FrameMem.read_write_same _ _ _, fun i hi => FrameMem.read_write_other _ _ hi⟩
  · exact .inl fun _ => rfl
  · exact .inl fun i => by simp
  · exact .inl fun _ => rfl
  · exact .inr (.inr ⟨rfl, ag, hreset⟩)

/-! Two steps, one after the other. -/

theorem runSteps_two_of_next {s t u : State} (e : step s = next t) (e' : step t = next u) : runSteps 2 s = next u := by
  simp only [runSteps, e, e']

theorem runSteps_two_of_fault {s t : State} {f : Machine.Fault} (e : step s = next t) (e' : step t = .fault f) :
    runSteps 2 s = .fault f := by
  simp only [runSteps, e, e']

theorem runSteps_two_of_first_fault {s : State} {f : Machine.Fault} (e : step s = .fault f) :
    runSteps 2 s = .fault f := by
  simp only [runSteps, e]

/-- A take and an emission write different parts of the state, whether the emission ends the frame, goes on, stops, or
is not enabled. -/
theorem take_emit_commute {s : State} (ts : List Turn) (hrsp : s.rspValid = true) :
    runSteps 2 { s with agenda := .move .take :: .move .emit :: ts } =
      runSteps 2 { s with agenda := .move .emit :: .move .take :: ts } := by
  have htake : step { s with agenda := .move .take :: .move .emit :: ts } =
      next (takeResponse { s with agenda := .move .emit :: ts }) := step_take rfl hrsp
  by_cases hp : s.phase = .busy
  · cases hb : nextByte s with
    | error f =>
      have hstop : step (takeResponse { s with agenda := .move .emit :: ts }) = .fault f :=
        step_emit_of_error rfl hp hb
      have hstop' : step { s with agenda := .move .emit :: .move .take :: ts } = .fault f :=
        step_emit_of_error rfl hp hb
      rw [runSteps_two_of_fault htake hstop, runSteps_two_of_first_fault hstop']
    | ok b =>
      have hemit : step (takeResponse { s with agenda := .move .emit :: ts }) =
          next (closeFrame (emitByte b (takeResponse { s with agenda := ts }))) := step_emit rfl hp hb
      have hemit' : step { s with agenda := .move .emit :: .move .take :: ts } =
          next (closeFrame (emitByte b { s with agenda := .move .take :: ts })) := step_emit rfl hp hb
      have htake' : step (closeFrame (emitByte b { s with agenda := .move .take :: ts })) =
          next (takeResponse (closeFrame (emitByte b { s with agenda := ts }))) := by
        have ha := closeFrame_agenda (emitByte b { s with agenda := .move .take :: ts })
        rw [step_take ha ((closeFrame_rspValid _).trans hrsp), ← closeFrame_with_agenda]
        rfl
      rw [runSteps_two_of_next htake hemit, runSteps_two_of_next hemit' htake', ← closeFrame_takeResponse]
      rfl
  · have hnone : step (takeResponse { s with agenda := .move .emit :: ts }) =
        next (takeResponse { s with agenda := ts }) := step_of_not_enabled rfl (decide_eq_false hp)
    have hnone' : step { s with agenda := .move .emit :: .move .take :: ts } =
        next { s with agenda := .move .take :: ts } := step_of_not_enabled rfl (decide_eq_false hp)
    rw [runSteps_two_of_next htake hnone, runSteps_two_of_next hnone' (step_take rfl hrsp)]

/-- A take and a sink error write different parts of the state, in FAULT and outside it. -/
theorem take_sinkError_commute {s : State} (ts : List Turn) (hrsp : s.rspValid = true) :
    runSteps 2 { s with agenda := .move .take :: .move .sinkError :: ts } =
      runSteps 2 { s with agenda := .move .sinkError :: .move .take :: ts } := by
  have htake : step { s with agenda := .move .take :: .move .sinkError :: ts } =
      next (takeResponse { s with agenda := .move .sinkError :: ts }) := step_take rfl hrsp
  by_cases hp : s.phase = .fault
  · have hnone : step (takeResponse { s with agenda := .move .sinkError :: ts }) =
        next (takeResponse { s with agenda := ts }) := step_sinkError_of_fault rfl hp
    have hnone' : step { s with agenda := .move .sinkError :: .move .take :: ts } =
        next { s with agenda := .move .take :: ts } := step_sinkError_of_fault rfl hp
    rw [runSteps_two_of_next htake hnone, runSteps_two_of_next hnone' (step_take rfl hrsp)]
  · have herr : step (takeResponse { s with agenda := .move .sinkError :: ts }) =
        next (sinkFails (takeResponse { s with agenda := ts })) := step_sinkError rfl hp
    have herr' : step { s with agenda := .move .sinkError :: .move .take :: ts } =
        next (sinkFails { s with agenda := .move .take :: ts }) := step_sinkError rfl hp
    have htake' : step (sinkFails { s with agenda := .move .take :: ts }) =
        next (takeResponse (sinkFails { s with agenda := ts })) := step_take rfl hrsp
    rw [runSteps_two_of_next htake herr, runSteps_two_of_next herr' htake']
    rfl

/-- Settles O27, for each of the two moves. -/
theorem takeCommutes : Obligations.TakeCommutes := by
  rintro s ts m hrsp (rfl | rfl)
  · exact take_emit_commute ts hrsp
  · exact take_sinkError_commute ts hrsp

/-- The byte at an offset of the frame reads the frame's own elements alone, since RIDX stays inside it (R79). -/
theorem frameByte_congr {w h : Nat} {m m' : FrameMem}
    (hm : ∀ i, i < w * h → FrameMem.read m i = FrameMem.read m' i) (j : Nat) :
    frameByte w (w * h) m j = frameByte w (w * h) m' j := by
  by_cases hj : j / 8 < w * h
  · simp only [frameByte, if_pos hj, hm _ (ridx_lt hj)]
  · simp only [frameByte, if_neg hj]

/-- Settles O38: the next byte is read at RIDX of ENC_POS / 8, which is an index of the frame. -/
theorem outputDependsOnFrameOnly : Obligations.OutputDependsOnFrameOnly := by
  intro s s' hp hp' hw hh hpos hfm
  have hbyte : nextByte s = nextByte s' := by
    rw [nextByte, nextByte, State.pixelCount, State.pixelCount, ← hw, ← hh, ← hpos]
    exact frameByte_congr hfm _
  simp only [State.outData, outValid_iff.mpr hp, outValid_iff.mpr hp', hbyte]

end Sys2Proof.Proofs

/-! PROOFS of the statement about the end of a run (60_exceptions.md), after what `endKind` answers in each phase and
which turns NothingComes excludes. -/

namespace Sys2Proof.Proofs

open Sys2Proof.Machine Sys2Proof.Safety Host.Outcome

/-! `endKind`, phase by phase (R105). -/

theorem endKind_of_fault {s : State} (hp : s.phase = .fault) : endKind s = some .faulted := by
  simp only [endKind, hp]

theorem endKind_of_busy {s : State} (hp : s.phase = .busy) :
    endKind s = if NothingComes s then some .stuck else none := by
  simp only [endKind, hp]

theorem endKind_of_response {s : State} (hp : s.phase = .unconfigured ∨ s.phase = .idle) (hrsp : s.rspValid = true) :
    endKind s = if NothingComes s then some .stuck else none := by
  obtain hp | hp := hp <;> simp only [endKind, hp, endKind.endWhileReady, if_pos hrsp]

theorem endKind_of_cmdReady {s : State} (hr : s.cmdReady = true) :
    endKind s = if s.cmdValid then none else some .complete := by
  obtain ⟨hp | hp, hrsp⟩ := cmdReady_iff.mp hr <;> simp only [endKind, hp, endKind.endWhileReady, hrsp] <;> rfl

/-- The four situations of a block: FAULT, BUSY, a pending response, and a port that is ready. -/
theorem block_cases (s : State) :
    s.phase = .fault ∨ s.phase = .busy ∨ ((s.phase = .unconfigured ∨ s.phase = .idle) ∧ s.rspValid = true) ∨
      s.cmdReady = true := by
  rw [cmdReady_iff]
  cases s.phase <;> cases s.rspValid <;> simp

theorem cmdValid_eq_false_iff {s : State} : s.cmdValid = false ↔ s.offered = [] := by
  simp [State.cmdValid]

theorem endKind_eq_faulted_iff {s : State} : endKind s = some .faulted ↔ s.phase = .fault := by
  refine ⟨fun h => ?_, endKind_of_fault⟩
  obtain hp | hp | ⟨hp, hrsp⟩ | hr := block_cases s
  · exact hp
  · rw [endKind_of_busy hp] at h; split at h <;> cases h
  · rw [endKind_of_response hp hrsp] at h; split at h <;> cases h
  · rw [endKind_of_cmdReady hr] at h; split at h <;> cases h

theorem endKind_eq_complete_iff {s : State} : endKind s = some .complete ↔ s.cmdReady = true ∧ s.offered = [] := by
  obtain hp | hp | ⟨hp, hrsp⟩ | hr := block_cases s
  · simp [endKind_of_fault hp, cmdReady_of_fault hp]
  · simp [endKind_of_busy hp, cmdReady_of_busy hp]
  · simp [endKind_of_response hp hrsp, cmdReady_eq_false_iff.mpr (.inr (.inr hrsp))]
  · simp [endKind_of_cmdReady hr, hr, ← cmdValid_eq_false_iff]

theorem endKind_eq_stuck_iff {s : State} :
    endKind s = some .stuck ↔
      (s.phase = .busy ∨ ((s.phase = .unconfigured ∨ s.phase = .idle) ∧ s.rspValid = true)) ∧ NothingComes s := by
  obtain hp | hp | ⟨hp, hrsp⟩ | hr := block_cases s
  · simp [endKind_of_fault hp, hp]
  · simp [endKind_of_busy hp, hp]
  · simp [endKind_of_response hp hrsp, hp, hrsp]
  · simp [endKind_of_cmdReady hr, phase_ne_busy_of_cmdReady hr, (cmdReady_iff.mp hr).2]

/-- While BUSY, and with a response pending outside FAULT, the run goes on if a turn to come takes a move. -/
theorem endKind_eq_none_of_move {s : State}
    (h : s.phase = .busy ∨ ((s.phase = .unconfigured ∨ s.phase = .idle) ∧ s.rspValid = true)) {turn : Turn}
    (hmem : turn ∈ s.agenda) (hm : moveOf turn s ≠ none) : endKind s = none := by
  have hcomes : ¬ NothingComes s := fun hnone => hm (hnone turn hmem)
  obtain hp | ⟨hp, hrsp⟩ := h
  · rw [endKind_of_busy hp, if_neg hcomes]
  · rw [endKind_of_response hp hrsp, if_neg hcomes]

/-! What the agenda of a stuck block cannot hold. -/

theorem moveOf_move_eq_none_iff {m : Move} {s : State} : moveOf (.move m) s = none ↔ enabled m s = false := by
  simp [moveOf]

/-- A cycle takes no move exactly when none of its events is enabled (R97). -/
theorem moveOf_cycle_eq_none_iff {c : Cycle} {s : State} :
    moveOf (.cycle c) s = none ↔ c.reset = false ∧ (c.sinkError && enabled .sinkError s) = false ∧
      (c.sinkReady && enabled .emit s) = false ∧ enabled .command s = false := by
  simp only [moveOf, arbitrate]
  split_ifs <;> simp_all

theorem not_mem_agenda_of_enabled {s : State} {m : Move} (h : NothingComes s) (hm : enabled m s = true) :
    Turn.move m ∉ s.agenda :=
  fun hmem => Bool.eq_false_iff.mp (moveOf_move_eq_none_iff.mp (h _ hmem)) hm

/-- The rest of a stuck block's agenda takes no move either, for the block itself does not change. -/
theorem nothingComes_tail {s : State} {turn : Turn} {ts : List Turn} (ha : s.agenda = turn :: ts)
    (h : NothingComes s) : NothingComes { s with agenda := ts } :=
  fun t ht => h t (ha ▸ List.mem_cons_of_mem turn ht)

/-- With nothing to come a step only uses up the next turn. -/
theorem step_of_nothingComes {s : State} (h : NothingComes s) :
    ∃ ts, step s = .next { s with agenda := ts } ∧ NothingComes { s with agenda := ts } := by
  cases ha : s.agenda with
  | nil => exact ⟨[], by rw [step_of_no_turn ha, ← ha], fun _ ht => absurd ht List.not_mem_nil⟩
  | cons turn ts => exact ⟨ts, step_of_no_move ha (h turn (ha ▸ List.mem_cons_self)), nothingComes_tail ha h⟩

/-- Settles O40: `endKind` situation by situation, and the moves that are enabled in each. -/
theorem endOfRun : Obligations.EndOfRun := by
  refine ⟨fun s => endKind_eq_faulted_iff, fun s => ?complete, fun s => endKind_eq_stuck_iff,
    fun s hnone hp => ⟨fun hb => ⟨?noEmit, fun c hc => ?noSink⟩, ?noTake, ?noError, ?noReset, fun c hc => ?noCycle⟩,
    fun s hb hmem => ?emitComes, fun s hrsp hp hmem => ?takeComes, fun s hen => ?commandComes, fun s hstuck => ?stays,
    fun s hend => ?completeQuiet, fun s hend => ?faultedQuiet⟩
  case complete =>
    rw [endKind_eq_complete_iff, cmdReady_iff]
    tauto
  case noEmit => exact not_mem_agenda_of_enabled hnone (outValid_iff.mpr hb)
  case noSink =>
    obtain ⟨-, -, hsink, -⟩ := moveOf_cycle_eq_none_iff.mp (hnone _ hc)
    simpa [show enabled .emit s = true from outValid_iff.mpr hb] using hsink
  case noTake => exact fun hrsp => not_mem_agenda_of_enabled hnone hrsp
  case noError => exact not_mem_agenda_of_enabled hnone (enabled_sinkError_iff.mpr hp)
  case noReset => exact not_mem_agenda_of_enabled hnone rfl
  case noCycle =>
    obtain ⟨hreset, herr, -, -⟩ := moveOf_cycle_eq_none_iff.mp (hnone _ hc)
    exact ⟨by simpa [enabled_sinkError_iff.mpr hp] using herr, hreset⟩
  case emitComes =>
    refine endKind_eq_none_of_move (.inl hb) hmem fun hm => ?_
    exact Bool.eq_false_iff.mp (moveOf_move_eq_none_iff.mp hm) (outValid_iff.mpr hb)
  case takeComes =>
    have hwait : s.phase = .busy ∨ ((s.phase = .unconfigured ∨ s.phase = .idle) ∧ s.rspValid = true) := by
      cases hs : s.phase <;> simp_all
    exact endKind_eq_none_of_move hwait hmem fun hm => Bool.eq_false_iff.mp (moveOf_move_eq_none_iff.mp hm) hrsp
  case commandComes =>
    obtain ⟨hvalid, hready⟩ := Bool.and_eq_true_iff.mp hen
    rw [endKind_of_cmdReady hready, if_pos hvalid]
  case stays =>
    obtain ⟨hwait, hnone⟩ := endKind_eq_stuck_iff.mp hstuck
    obtain ⟨ts, hstep, hnone'⟩ := step_of_nothingComes hnone
    exact ⟨ts, hstep, endKind_eq_stuck_iff.mpr ⟨hwait, hnone'⟩⟩
  case completeQuiet =>
    obtain ⟨hready, ho⟩ := endKind_eq_complete_iff.mp hend
    exact ⟨enabled_command_of_nothing_offered ho, (cmdReady_iff.mp hready).2,
      decide_eq_false (phase_ne_busy_of_cmdReady hready)⟩
  case faultedQuiet =>
    have hp := endKind_eq_faulted_iff.mp hend
    exact ⟨enabled_command_of_fault hp, outValid_of_fault hp, enabled_sinkError_of_fault hp⟩

end Sys2Proof.Proofs

/-! PROOFS of the statements about a pixel's bytes and the serial link (40_codebook.md, 20_memory.md), after the
injectivity of the symbol bytes and of their cells. -/

namespace Sys2Proof.Proofs

open Sys2Proof.Machine Sys2Proof.Safety

/-! A pixel's bytes (R68, R70). -/

/-- Every bit of a packed word is a bit of one slot's group (R65). -/
theorem eq_of_group_eq {w w' : Packed} (h : ∀ s, group w s = group w' s) : w = w' := by
  refine BitVec.eq_of_getLsbD_eq fun k hk => ?_
  have hslot : (BitVec.ofNat 3 (7 - k / 3)).toNat = 7 - k / 3 := by rw [BitVec.toNat_ofNat]; omega
  have hbit : 21 + k % 3 - 3 * (BitVec.ofNat 3 (7 - k / 3)).toNat = k := by omega
  have hi : k % 3 < 3 := Nat.mod_lt k (by decide)
  have hgroup := congrArg (BitVec.getLsbD · (k % 3)) (h (BitVec.ofNat 3 (7 - k / 3)))
  simpa only [group_getLsbD hi, hbit] using hgroup

theorem mem_slotsInOrder (s : Slot) : s ∈ slotsInOrder := by
  revert s; decide

/-- Any reading of the eight bytes that tells symbol bytes apart tells packed words apart. -/
theorem eq_of_map_encodePacked_eq {α : Type} {f : Byte → α} (hf : ∀ g g' : Group, f (sym g) = f (sym g') → g = g')
    {w w' : Packed} (h : (encodePacked w).map f = (encodePacked w').map f) : w = w' := by
  rw [encodePacked, encodePacked, List.map_map, List.map_map, List.map_inj_left] at h
  exact eq_of_group_eq fun s => hf _ _ (h s (mem_slotsInOrder s))

theorem sym_injective {g g' : Group} (h : sym g = sym g') : g = g' := by
  rw [← unsym_sym g, h, unsym_sym]

/-- Bit 7 of a symbol byte is 0, so the low seven bits tell them apart (R52). -/
theorem linkPayload_sym_injective : ∀ g g' : Group, linkPayload (sym g) = linkPayload (sym g') → g = g' := by
  decide

/-- Settles O43: the eight groups make the word, and each byte, or its low seven bits, gives its group back. -/
theorem pixelBytesDetermineWord : Obligations.PixelBytesDetermineWord :=
  ⟨fun _ _ h => eq_of_map_encodePacked_eq (f := id) (fun _ _ => sym_injective) (congrArg (List.map id) h),
    fun _ _ => eq_of_map_encodePacked_eq linkPayload_sym_injective, fun _ _ => unsym_sym _, encodePacked_length⟩

/-! The line (R51, R122). -/

/-- A byte is nine cells, whatever the polarity. -/
theorem lineLevels_length (p : LinePolarity) (b : Byte) : (lineLevels p b).length = 9 := by
  cases p <;> simp [lineLevels, lineCells, Config.lineDataBits]

theorem lineLevels_injective_on_symbolBytes (p : LinePolarity) :
    ∀ b ∈ symbolBytes, ∀ b' ∈ symbolBytes, lineLevels p b = lineLevels p b' → b = b' := by
  cases p <;> decide

theorem lineOf_cons (p : LinePolarity) (b : Byte) (out : List Byte) :
    lineOf p (b :: out) = lineLevels p b ++ lineOf p out := List.flatMap_cons

theorem lineOf_length (p : LinePolarity) (out : List Byte) : (lineOf p out).length = 9 * out.length := by
  induction out with
  | nil => rfl
  | cons b out ih => rw [lineOf_cons, List.length_append, lineLevels_length, ih, List.length_cons]; omega

/-- All bytes take the same number of cells, so the line's cells fall apart into bytes in one way. -/
theorem lineOf_injective_on_symbolBytes {p : LinePolarity} {out out' : List Byte} (hout : ∀ b ∈ out, b ∈ symbolBytes)
    (hout' : ∀ b ∈ out', b ∈ symbolBytes) (h : lineOf p out = lineOf p out') : out = out' := by
  induction out generalizing out' with
  | nil =>
    have hlen := lineOf_length p out'
    rw [← h] at hlen
    exact (List.length_eq_zero_iff.mp (by simpa [lineOf] using hlen.symm)).symm
  | cons b out ih =>
    cases out' with
    | nil => simpa [lineOf_length] using congrArg List.length h
    | cons b' out' =>
      rw [List.forall_mem_cons] at hout hout'
      rw [lineOf_cons, lineOf_cons] at h
      obtain ⟨hb, hrest⟩ := List.append_inj h (by rw [lineLevels_length, lineLevels_length])
      rw [lineLevels_injective_on_symbolBytes p b hout.1 b' hout'.1 hb, ih hout.2 hout'.2 hrest]

/-- Settles O44: the cells of the eight groups, and the line read back byte by byte. -/
theorem linkLosesNothing : Obligations.LinkLosesNothing :=
  ⟨by decide, fun _ _ _ => lineOf_injective_on_symbolBytes, lineOf_length⟩

end Sys2Proof.Proofs

/-! PROOFS of the statement about the host's quantizer (42_frame_encoder.md). -/

namespace Sys2Proof.Proofs

open Sys2Proof.Machine

theorem clampByte_of_nonpos {v : Int} (h : v ≤ 0) : clampByte v = 0#8 := by
  rw [clampByte, max_eq_left h]; rfl

theorem clampByte_of_ge {v : Int} (h : 255 ≤ v) : clampByte v = 255#8 := by
  rw [clampByte, max_eq_right (by omega), min_eq_left h]; rfl

theorem factor_ge (scale : QuantScale) : 255 ≤ scale.factor := by
  cases scale <;> norm_num [QuantScale.factor]

section quantize
variable {scale : QuantScale} {round : ℝ → Int} (hround : LegalRound round)
include hround

theorem quantize_of_nonpos {c : ℝ} (hc : c ≤ 0) : quantize scale round (.finite c) = some 0#8 := by
  obtain ⟨hmono, hint⟩ := hround
  have hscaled : c * scale.factor ≤ ((0 : Int) : ℝ) := by
    rw [Int.cast_zero]; exact mul_nonpos_of_nonpos_of_nonneg hc (by linarith [factor_ge scale])
  have hle : round (c * scale.factor) ≤ 0 := (hmono _ _ hscaled).trans_eq (hint 0)
  exact congrArg some (clampByte_of_nonpos hle)

theorem quantize_of_one_le {c : ℝ} (hc : 1 ≤ c) : quantize scale round (.finite c) = some 255#8 := by
  obtain ⟨hmono, hint⟩ := hround
  have hscaled : ((255 : Int) : ℝ) ≤ c * scale.factor := by
    have hpos : 0 ≤ scale.factor := by linarith [factor_ge scale]
    push_cast
    exact (factor_ge scale).trans (le_mul_of_one_le_left hpos hc)
  have hle : 255 ≤ round (c * scale.factor) := (hint 255).symm.trans_le (hmono _ _ hscaled)
  exact congrArg some (clampByte_of_ge hle)
end quantize

/-- Settles O49: a monotone rounding that fixes 0 and 255 keeps inputs up to 0 at or below 0, and from 1 on at or above
255, for either scale. -/
theorem quantizerClamps : Obligations.QuantizerClamps := by
  intro scale round hround
  have hzero : quantize scale round (.finite 0) = some 0#8 := quantize_of_nonpos hround le_rfl
  have hone : quantize scale round (.finite 1) = some 255#8 := quantize_of_one_le hround le_rfl
  exact ⟨hzero, hone, fun c hc => (quantize_of_nonpos hround hc).trans hzero.symm,
    fun c hc => (quantize_of_one_le hround hc).trans hone.symm, rfl, rfl, rfl⟩

end Sys2Proof.Proofs

/-! PROOFS of the statement about the host's pacer (60_exceptions.md), after what one pass of its loop can do and the
induction over its passes. -/

namespace Sys2Proof.Proofs

open Sys2Proof.Machine

section pacer
variable {source : ContentSource}

/-- R107: one pass finds the source exhausted, or ships the next item and goes on, or ends in its transmission. -/
theorem pacerLoop_succ_cases (source : ContentSource) (passes k : Nat) (p : Pacer) (s : State) :
    (source k = none ∧ pacerLoop source (passes + 1) k p s = ⟨[], s, .exhausted⟩) ∨
    (∃ item, source k = some item ∧ ∃ (t : State) (run : PacerRun),
      pacerLoop source passes (k + 1) (pacerNext item p) t = run ∧
      pacerLoop source (passes + 1) k p s = { run with starts := frameStart item p :: run.starts }) ∨
    (∃ item, source k = some item ∧ ∃ (t : State) (ended : PacerEnd), ended ≠ .running ∧ ended ≠ .exhausted ∧
      pacerLoop source (passes + 1) k p s = ⟨[frameStart item p], t, ended⟩) := by
  cases hk : source k with
  | none => exact .inl ⟨rfl, by simp only [pacerLoop, hk]⟩
  | some item =>
    refine .inr ?_
    cases htr : transmit item.turns (offerFrame item.pixels s) with
    | done t => exact .inl ⟨item, rfl, t, _, rfl, by simp only [pacerLoop, hk, htr]⟩
    | fatal t => exact .inr ⟨item, rfl, t, .faulted, by decide, by decide, by simp only [pacerLoop, hk, htr]⟩
    | hung t => exact .inr ⟨item, rfl, t, .hung, by decide, by decide, by simp only [pacerLoop, hk, htr]⟩
    | stopped t => exact .inr ⟨item, rfl, t, .stopped, by decide, by decide, by simp only [pacerLoop, hk, htr]⟩

theorem starts_length_of_running {passes k : Nat} {p : Pacer} {s : State}
    (h : (pacerLoop source passes k p s).ended = .running) :
    (pacerLoop source passes k p s).starts.length = passes := by
  induction passes generalizing k p s with
  | zero => rfl
  | succ passes ih =>
    obtain ⟨-, e⟩ | ⟨item, -, t, run, rfl, e⟩ | ⟨item, -, t, ended, hrun, -, e⟩ :=
      pacerLoop_succ_cases source passes k p s <;> rw [e] at h ⊢
    · cases h
    · rw [List.length_cons, ih h]
    · exact absurd h hrun

theorem source_of_exhausted {passes k : Nat} {p : Pacer} {s : State}
    (h : (pacerLoop source passes k p s).ended = .exhausted) :
    source (k + (pacerLoop source passes k p s).starts.length) = none ∧
      ∀ j, j < (pacerLoop source passes k p s).starts.length → source (k + j) ≠ none := by
  induction passes generalizing k p s with
  | zero => cases h
  | succ passes ih =>
    obtain ⟨hk, e⟩ | ⟨item, hk, t, run, rfl, e⟩ | ⟨item, -, t, ended, -, hexh, e⟩ :=
      pacerLoop_succ_cases source passes k p s <;> rw [e] at h ⊢
    · exact ⟨hk, fun j hj => absurd hj (Nat.not_lt_zero j)⟩
    · obtain ⟨hend, hbefore⟩ := ih h
      refine ⟨by rw [List.length_cons, Nat.add_comm _ 1, ← Nat.add_assoc]; exact hend, fun j hj => ?_⟩
      cases j with
      | zero => simp [hk]
      | succ j => rw [Nat.add_comm j, ← Nat.add_assoc]; exact hbefore j (Nat.lt_of_succ_lt_succ hj)
    · exact absurd h hexh

/-- A property of the pacer that holds at the start, and that a pass over the next item keeps, holds of the pacer that
starts each frame. -/
theorem exists_pacer_of_start {Q : Nat → Pacer → Prop}
    (hkeep : ∀ k item p, source k = some item → Q k p → Q (k + 1) (pacerNext item p)) {passes k j start : Nat}
    {p : Pacer} {s : State} (hq : Q k p) (h : (pacerLoop source passes k p s).starts[j]? = some start) :
    ∃ item p', source (k + j) = some item ∧ Q (k + j) p' ∧ start = frameStart item p' := by
  induction passes generalizing k p s j with
  | zero => cases h
  | succ passes ih =>
    obtain ⟨-, e⟩ | ⟨item, hk, t, run, rfl, e⟩ | ⟨item, hk, t, ended, -, -, e⟩ :=
      pacerLoop_succ_cases source passes k p s <;> rw [e] at h
    · cases h
    · cases j with
      | zero => cases h; exact ⟨item, p, hk, hq, rfl⟩
      | succ j =>
        rw [Nat.add_comm j, ← Nat.add_assoc]
        exact ih (hkeep k item p hk hq) h
    · cases j with
      | zero => cases h; exact ⟨item, p, hk, hq, rfl⟩
      | succ j => cases h

/-- The pacer's deadline is the start plus the delays of the frames before (R108), and its clock has reached it. -/
def OnDeadline (source : ContentSource) (start k : Nat) (p : Pacer) : Prop :=
  p.nextDeadline = start + delaysBefore source k ∧ p.nextDeadline ≤ p.now

theorem delaysBefore_succ {k : Nat} {item : PacedFrame} (h : source k = some item) :
    delaysBefore source (k + 1) = delaysBefore source k + item.delay := by
  rw [delaysBefore, delayAt, h]

theorem onDeadline_pacerStart (source : ContentSource) (start : Nat) :
    OnDeadline source start 0 (pacerStart start) := ⟨rfl, le_rfl⟩

theorem onDeadline_pacerNext {start k : Nat} {item : PacedFrame} {p : Pacer} (hk : source k = some item)
    (h : OnDeadline source start k p) : OnDeadline source start (k + 1) (pacerNext item p) := by
  obtain ⟨hdeadline, -⟩ := h
  exact ⟨by rw [pacerNext_nextDeadline, hdeadline, delaysBefore_succ hk, Nat.add_assoc], (pacerNext_now_ge item p).1⟩

/-- With no wait, no cost and an exact sleep a pass ends exactly at its deadline. -/
theorem pacerNext_now_of_exact {item : PacedFrame} {p : Pacer}
    (hexact : item.wait = 0 ∧ item.cost = 0 ∧ item.overSleep = 0) (hnow : p.now = p.nextDeadline) :
    (pacerNext item p).now = (pacerNext item p).nextDeadline := by
  obtain ⟨hwait, hcost, hover⟩ := hexact
  simp only [pacerNext, frameStart, sleepTime, hwait, hcost, hover, hnow]
  omega

/-- After an overrun the pacer asks for no sleep (R109). -/
theorem pacerNext_now_of_overrun {item : PacedFrame} {p : Pacer} (hover : item.overSleep = 0)
    (hlate : p.nextDeadline + item.delay ≤ frameStart item p + item.cost) :
    (pacerNext item p).now = frameStart item p + item.cost := by
  simp only [pacerNext, sleepTime, hover]
  omega
end pacer

/-- Settles O50: the shape of a run by induction over its passes, and the start times from the deadline that every pass
keeps. -/
theorem pacerDeadlines : Obligations.PacerDeadlines := by
  refine ⟨fun source passes start s => starts_length_of_running, fun source passes start s h => ?exhausted,
    fun source passes start s k t h => ?late, fun source passes start s hexact k t h => ?exact,
    fun p item => pacerNext_now_of_overrun⟩
  case exhausted => simpa only [pacerRun, Nat.zero_add] using source_of_exhausted h
  case late =>
    obtain ⟨item, p, -, ⟨hdeadline, hreached⟩, rfl⟩ :=
      exists_pacer_of_start (fun _ _ _ => onDeadline_pacerNext) (onDeadline_pacerStart source start) h
    rw [Nat.zero_add] at hdeadline
    exact hdeadline ▸ hreached.trans (Nat.le_add_right p.now item.wait)
  case exact =>
    obtain ⟨item, p, hk, ⟨⟨hdeadline, -⟩, hnow⟩, rfl⟩ :=
      exists_pacer_of_start (Q := fun k p => OnDeadline source start k p ∧ p.now = p.nextDeadline)
        (fun _ _ _ hk hq => ⟨onDeadline_pacerNext hk hq.1, pacerNext_now_of_exact (hexact _ _ hk) hq.2⟩)
        ⟨onDeadline_pacerStart source start, rfl⟩ h
    rw [Nat.zero_add] at hdeadline
    rw [frameStart, (hexact _ _ hk).1, hnow, hdeadline, Nat.add_zero]

end Sys2Proof.Proofs

/-! PROOFS of the statement about the assembler (30_encoding.md section 6), after what it answers on one line and on a
run of PIXEL lines. -/

namespace Sys2Proof.Proofs

open Sys2Proof.Machine

/-! One line (R62). -/

theorem assembleFrom_of_wellFormed {n : Option Nat} {src : Source} (rest : List Source)
    (h : src.wellFormed n = true) :
    assembleFrom n (src :: rest) =
      (assembleFrom (sizeAfter n src) rest).map (actionsOf (n.getD 0) src ++ ·) := by
  rw [assembleFrom, if_pos h]

theorem assembleFrom_of_not_wellFormed {n : Option Nat} {src : Source} (rest : List Source)
    (h : src.wellFormed n = false) : assembleFrom n (src :: rest) = none := by
  rw [assembleFrom, if_neg (Bool.eq_false_iff.mp h)]

/-- The assembler takes a program exactly when its first line is well formed and it takes the rest. -/
theorem assembleFrom_cons_eq_some {n : Option Nat} {src : Source} {rest : List Source} {acts : List Action} :
    assembleFrom n (src :: rest) = some acts ↔ src.wellFormed n = true ∧
      ∃ more, assembleFrom (sizeAfter n src) rest = some more ∧ acts = actionsOf (n.getD 0) src ++ more := by
  cases h : src.wellFormed n with
  | false => simp [assembleFrom_of_not_wellFormed rest h]
  | true => simp [assembleFrom_of_wellFormed rest h, eq_comm (a := acts)]

/-- A number that fits its field is the field's value: nothing is truncated (R62). -/
theorem toNat_ofNat_of_fitsField {width v : Nat} (h : fitsField width v = true) : (BitVec.ofNat width v).toNat = v := by
  rw [BitVec.toNat_ofNat, Nat.mod_eq_of_lt (of_decide_eq_true h)]

theorem fitsPixel_iff {r g b : Nat} :
    fitsPixel r g b = true ↔ fitsField 8 r = true ∧ fitsField 8 g = true ∧ fitsField 8 b = true := by
  simp only [fitsPixel, Bool.and_eq_true, and_assoc]

/-! A run of PIXEL lines, which FILL, SHOW and FRAME stand for (R63). -/

/-- The PIXEL line of a pixel's three numbers. -/
def pixelLine (px : Nat × Nat × Nat) : Source := .pixel px.1 px.2.1 px.2.2

/-- The PIXEL command of a pixel's three numbers. -/
def pixelAction (px : Nat × Nat × Nat) : Action := .command (pixelInstr px.1 px.2.1 px.2.2)

def fitsTriple (px : Nat × Nat × Nat) : Bool := fitsPixel px.1 px.2.1 px.2.2

theorem assembleFrom_pixelLine {n : Option Nat} {px : Nat × Nat × Nat} (rest : List Source) :
    assembleFrom n (pixelLine px :: rest) =
      if fitsTriple px then (assembleFrom n rest).map (pixelAction px :: ·) else none := rfl

theorem assembleFrom_pixelLines (n : Option Nat) (pixels : List (Nat × Nat × Nat)) (rest : List Source) :
    assembleFrom n (pixels.map pixelLine ++ rest) =
      if pixels.all fitsTriple then (assembleFrom n rest).map (pixels.map pixelAction ++ ·) else none := by
  induction pixels with
  | nil => simp
  | cons px pixels ih =>
    rw [List.map_cons, List.cons_append, assembleFrom_pixelLine, ih, List.all_cons]
    cases fitsTriple px <;> cases pixels.all fitsTriple <;> simp [Function.comp_def]

theorem assembleFrom_encode (n : Option Nat) (rest : List Source) :
    assembleFrom n (.encode :: rest) = (assembleFrom n rest).map (Action.command .encode :: ·) := rfl

/-- FILL is a run of N equal PIXEL lines. -/
theorem assembleFrom_fill {n r g b : Nat} (rest : List Source) (h : fitsPixel r g b = true) :
    assembleFrom (some n) (.fill r g b :: rest) =
      assembleFrom (some n) (List.replicate n (.pixel r g b) ++ rest) := by
  have hlines := assembleFrom_pixelLines (some n) (List.replicate n (r, g, b)) rest
  have hall : (List.replicate n (r, g, b)).all fitsTriple = true := by
    rw [List.all_replicate, show fitsTriple (r, g, b) = true from h, ite_self]
  rw [List.map_replicate, List.map_replicate, if_pos hall] at hlines
  exact (assembleFrom_of_wellFormed (n := some n) (src := .fill r g b) rest h).trans hlines.symm

/-- SHOW is FILL and then ENCODE. -/
theorem assembleFrom_showFrame {n r g b : Nat} (rest : List Source) (h : fitsPixel r g b = true) :
    assembleFrom (some n) (.showFrame r g b :: rest) = assembleFrom (some n) (.fill r g b :: .encode :: rest) := by
  rw [assembleFrom_of_wellFormed (n := some n) (src := .showFrame r g b) rest h,
    assembleFrom_of_wellFormed (n := some n) (src := .fill r g b) _ h]
  simp only [sizeAfter, assembleFrom_encode, Option.map_map]
  exact congrArg (Option.map · _) (funext fun more => List.append_assoc _ [_] more)

/-- FRAME with N pixels is a run of PIXEL lines and then ENCODE, and is refused where one of those is. -/
theorem assembleFrom_frame (pixels : List (Nat × Nat × Nat)) (rest : List Source) :
    assembleFrom (some pixels.length) (.frame pixels :: rest) =
      assembleFrom (some pixels.length) (pixels.map pixelLine ++ .encode :: rest) := by
  have hwf : (Source.frame pixels).wellFormed (some pixels.length) = pixels.all fitsTriple := by
    rw [Source.wellFormed, decide_eq_true rfl, Bool.true_and]; rfl
  rw [assembleFrom_pixelLines, assembleFrom_encode, ← hwf]
  cases h : (Source.frame pixels).wellFormed (some pixels.length) with
  | false => exact assembleFrom_of_not_wellFormed rest h
  | true =>
    rw [assembleFrom_of_wellFormed rest h, if_pos rfl, Option.map_map]
    exact congrArg (Option.map · _) (funext fun more => List.append_assoc _ [_] more)

/-- Settles O51, line by line: the fields' checks, and the pseudo-commands' expansions. -/
theorem assemblerExpandsExactly : Obligations.AssemblerExpandsExactly := by
  refine ⟨fun n w h rest acts e => ?config, fun n w h rest hbig => ?refused, fun n r g b rest acts e => ?pixel,
    fun n ch val slot rest acts e => ?cbLookup, fun n p rest acts e => ?mapLookup,
    fun r g b rest => ⟨assembleFrom_of_not_wellFormed rest rfl, assembleFrom_of_not_wellFormed rest rfl⟩,
    fun n r g b rest hr hg hb => ?pseudo, fun n pixels rest hn => hn ▸ assembleFrom_frame pixels rest,
    fun n pixels rest hn => ?length⟩
  case config =>
    obtain ⟨hfit, more, hmore, rfl⟩ := assembleFrom_cons_eq_some.mp e
    obtain ⟨hw, hh⟩ := Bool.and_eq_true_iff.mp hfit
    exact ⟨_, _, more, toNat_ofNat_of_fitsField hw, toNat_ofNat_of_fitsField hh, rfl, hmore⟩
  case refused =>
    have hbad : (Source.config w h).wellFormed n = false := by
      simp only [Source.wellFormed, fitsField, Bool.and_eq_false_iff, decide_eq_false_iff_not]
      omega
    exact assembleFrom_of_not_wellFormed rest hbad
  case pixel =>
    obtain ⟨hfit, more, hmore, rfl⟩ := assembleFrom_cons_eq_some.mp e
    obtain ⟨hr, hg, hb⟩ := fitsPixel_iff.mp hfit
    exact ⟨_, _, _, more, toNat_ofNat_of_fitsField hr, toNat_ofNat_of_fitsField hg, toNat_ofNat_of_fitsField hb, rfl,
      hmore⟩
  case cbLookup =>
    obtain ⟨hfit, more, hmore, rfl⟩ := assembleFrom_cons_eq_some.mp e
    obtain ⟨hfit, hslot⟩ := Bool.and_eq_true_iff.mp hfit
    obtain ⟨hch, hval⟩ := Bool.and_eq_true_iff.mp hfit
    exact ⟨_, _, _, more, toNat_ofNat_of_fitsField hch, toNat_ofNat_of_fitsField hval,
      toNat_ofNat_of_fitsField hslot, rfl, hmore⟩
  case mapLookup =>
    obtain ⟨hfit, more, hmore, rfl⟩ := assembleFrom_cons_eq_some.mp e
    exact ⟨_, more, toNat_ofNat_of_fitsField hfit, rfl, hmore⟩
  case pseudo =>
    have hfit : fitsPixel r g b = true := fitsPixel_iff.mpr ⟨decide_eq_true hr, decide_eq_true hg, decide_eq_true hb⟩
    exact ⟨assembleFrom_fill rest hfit, assembleFrom_showFrame rest hfit⟩
  case length =>
    have hbad : (Source.frame pixels).wellFormed n = false := by simp [Source.wellFormed, hn]
    exact assembleFrom_of_not_wellFormed rest hbad

end Sys2Proof.Proofs

/-! PROOFS of the statement about a paced frame's transmission (60_exceptions.md), after the frame that a run of PIXELs
loads, the turns of a transmission that accept words, and those that emit. -/

namespace Sys2Proof.Proofs

open Sys2Proof.Machine Sys2Proof.Safety Host.Outcome

/-! The effect of a run of PIXELs (R84). -/

/-- The frame memory after one write per pixel, at rising indices from `i` on. -/
def writePixels (m : FrameMem) (i : Nat) : List Pixel → FrameMem
  | [] => m
  | px :: pixels => writePixels (FrameMem.write m i px) (i + 1) pixels

/-- The block after one PIXEL per pixel. -/
def storePixels (pixels : List Pixel) (s : State) : State :=
  { s with
    fm := writePixels s.fm s.wrPtr.toNat pixels
    wrPtr := s.wrPtr + BitVec.ofNat 24 pixels.length }

theorem read_writePixels_below {m : FrameMem} {i a : Nat} {pixels : List Pixel} (ha : a < i) :
    FrameMem.read (writePixels m i pixels) a = FrameMem.read m a := by
  induction pixels generalizing m i with
  | nil => rfl
  | cons px pixels ih => rw [writePixels, ih (by omega), FrameMem.read_write_other m px (by omega)]

theorem read_writePixels {m : FrameMem} {i k : Nat} {pixels : List Pixel} (hk : k < pixels.length) :
    FrameMem.read (writePixels m i pixels) (i + k) = pixels[k]? := by
  induction pixels generalizing m i k with
  | nil => cases hk
  | cons px pixels ih =>
    cases k with
    | zero => exact (read_writePixels_below (Nat.lt_succ_self i)).trans (FrameMem.read_write_same m i px)
    | succ k =>
      rw [writePixels, List.getElem?_cons_succ, ← Nat.add_assoc, Nat.add_right_comm]
      exact ih (Nat.lt_of_succ_lt_succ hk)

theorem storePixels_nil (s : State) : storePixels [] s = s := by
  simp only [storePixels, writePixels, List.length_nil, BitVec.add_zero]

theorem storePixels_storePixel {s : State} (hptr : (s.wrPtr + 1#24).toNat = s.wrPtr.toNat + 1) (px : Pixel)
    (pixels : List Pixel) : storePixels pixels (storePixel px s) = storePixels (px :: pixels) s := by
  have hsum : s.wrPtr + 1#24 + BitVec.ofNat 24 pixels.length = s.wrPtr + BitVec.ofNat 24 (pixels.length + 1) := by
    rw [Nat.add_comm, BitVec.ofNat_add, BitVec.add_assoc]
  simp only [storePixels, storePixel, writePixels, List.length_cons, hptr, hsum]

/-- WR_PTR counts the pixels of a frame without wrapping (R7, R21). -/
theorem storePixels_wrPtr_toNat {s : State} (h : Inv s) {pixels : List Pixel}
    (hroom : s.wrPtr.toNat + pixels.length ≤ s.pixelCount) :
    (storePixels pixels s).wrPtr.toNat = s.wrPtr.toNat + pixels.length := by
  obtain ⟨-, hcap⟩ := h.capacity_range
  have hfits := h.frame_fits
  simp only [storePixels, BitVec.toNat_add, BitVec.toNat_ofNat]
  omega

/-! The turns that accept a frame's words (R107). -/

/-- R107's PIXEL of one element. -/
def pixelCommandOf (px : Pixel) : Instr := .pixel (redOf px) (greenOf px) (blueOf px)

/-- The words of a run of PIXELs. -/
def pixelWords (pixels : List Pixel) : List Word := pixels.map fun px => encode (pixelCommandOf px)

theorem offerFrame_offered {s : State} (ho : s.offered = []) (pixels : List Pixel) :
    (offerFrame pixels s).offered = pixelWords pixels ++ [encode .encode] := by
  simp only [offerFrame, ho, frameCommands, List.map_append, List.map_map, List.nil_append]
  rfl

/-- A command turn of a transmission runs the offered command. -/
theorem transmit_command {s u : State} {i : Instr} {ws : List Word} (hr : s.cmdReady = true)
    (ho : s.offered = encode i :: ws) (e : exec i (Accepted s s.agenda ws) = next u) (turns : List Turn) :
    transmit (.move .command :: turns) s = transmit turns u := by
  have hstep : step { s with agenda := .move .command :: s.agenda } = next u :=
    (step_command_of_legal (s := { s with agenda := .move .command :: s.agenda }) (decode_encode i) rfl ho hr).trans e
  exact transmit_step (phase_ne_fault_of_cmdReady hr) (.inl (by simp [ho])) hstep

theorem exec_pixelCommandOf {s : State} (h : Inv s) (hp : s.phase = .idle) (hroom : s.wrPtr.toNat < s.pixelCount)
    (px : Pixel) : exec (pixelCommandOf px) s = next (storePixel px s) := by
  rw [pixelCommandOf, exec_pixel_of_room (by simp [hp]) hroom.ne (hroom.trans_le h.frame_fits), pixelOf_eta]

/-- In a block with room for them, as many command turns as PIXELs offered load their pixels. -/
theorem transmit_pixels {pixels : List Pixel} {s : State} {ws : List Word} (h : Inv s) (hp : s.phase = .idle)
    (hrsp : s.rspValid = false) (ho : s.offered = pixelWords pixels ++ ws)
    (hroom : s.wrPtr.toNat + pixels.length ≤ s.pixelCount) (turns : List Turn) :
    transmit (List.replicate pixels.length (.move .command) ++ turns) s =
      transmit turns (Accepted (storePixels pixels s) s.agenda ws) := by
  induction pixels generalizing s with
  | nil =>
    have hs : s.offered = ws := ho
    rw [storePixels_nil, ← hs]
    rfl
  | cons px pixels ih =>
    rw [List.length_cons] at hroom
    have hlt : s.wrPtr.toNat < s.pixelCount := by omega
    have hptr := wrPtr_add_one_toNat h (hlt.trans_le h.frame_fits)
    have hinv := inv_accepted h s.agenda (pixelWords pixels ++ ws)
    have hroom' : (s.wrPtr + 1#24).toNat + pixels.length ≤ s.pixelCount := by omega
    calc transmit (.move .command :: (List.replicate pixels.length (.move .command) ++ turns)) s
      _ = transmit (List.replicate pixels.length (.move .command) ++ turns)
            (storePixel px (Accepted s s.agenda (pixelWords pixels ++ ws))) :=
        transmit_command (cmdReady_iff.mpr ⟨.inr hp, hrsp⟩) ho (exec_pixelCommandOf hinv hp hlt px) _
      _ = transmit turns (Accepted
            (storePixels pixels (storePixel px (Accepted s s.agenda (pixelWords pixels ++ ws)))) s.agenda ws) :=
        ih (inv_storePixel hinv hp hlt.ne px) hp hrsp rfl hroom'
      _ = transmit turns (Accepted (storePixels (px :: pixels) s) s.agenda ws) := by
        rw [storePixels_storePixel (s := Accepted s s.agenda (pixelWords pixels ++ ws)) hptr]; rfl

/-! The turns that emit a frame's bytes. -/

/-- A transmission's emission turns do what the block's own steps do: with no word offered, and once those steps end
outside BUSY and FAULT, it is done. -/
theorem transmit_emissions {n : Nat} {s t : State} (ho : s.offered = [])
    (h : runSteps n { s with agenda := List.replicate n (.move .emit) ++ s.agenda } = next t)
    (hfault : t.phase ≠ .fault) (hbusy : t.phase ≠ .busy) :
    transmit (List.replicate n (.move .emit)) s = .done t := by
  induction n generalizing s with
  | zero =>
    have hst : s = t := next_inj h
    exact hst ▸ transmit_done [] (hst ▸ hfault) (hst ▸ hbusy) ho
  | succ n ih =>
    by_cases hp : s.phase = .busy
    · cases hb : nextByte s with
      | error f =>
        have hstop := step_emit_of_error
          (s := { s with agenda := .move .emit :: (List.replicate n (.move .emit) ++ s.agenda) }) rfl hp hb
        simp only [runSteps, List.replicate_succ, List.cons_append, hstop] at h
        cases h
      | ok b =>
        have hstep : step { s with agenda := .move .emit :: s.agenda } = next (closeFrame (emitByte b s)) :=
          step_emit (s := { s with agenda := .move .emit :: s.agenda }) rfl hp hb
        have hstep' := step_emit
          (s := { s with agenda := .move .emit :: (List.replicate n (.move .emit) ++ s.agenda) }) rfl hp hb
        have hrun := (runSteps_succ_of_step n hstep').symm.trans h
        refine (transmit_step (by simp [hp]) (.inr hp) hstep).trans (ih (by simpa using ho) ?_)
        rw [closeFrame_agenda, ← closeFrame_with_agenda]
        exact hrun
    · have hstep := step_of_not_enabled
        (s := { s with agenda := .move .emit :: (List.replicate n (.move .emit) ++ s.agenda) }) rfl
        (decide_eq_false hp)
      have hdone := ih ho ((runSteps_succ_of_step n hstep).symm.trans h)
      have hpf : s.phase ≠ .fault := fun hp' => by simp [transmit_fault _ hp'] at hdone
      rw [transmit_done _ hpf hp ho] at hdone ⊢
      exact hdone

/-! A paced frame, by its length. -/

/-- What the pacer finds before it offers a frame: an IDLE block with nothing loaded, offered or pending. -/
structure ReadyForFrame (s : State) : Prop where
  inv : Inv s
  idle : s.phase = .idle
  no_response : s.rspValid = false
  nothing_loaded : s.wrPtr = 0#24
  nothing_offered : s.offered = []

/-- The block once a run of PIXELs is accepted, with the words `ws` left. -/
def pixelsLoaded (pixels : List Pixel) (ws : List Word) (s : State) : State :=
  Accepted (storePixels pixels s) s.agenda ws

/-- The block once a whole frame and its ENCODE are accepted. -/
def frameBegun (pixels : List Pixel) (s : State) : State := beginFrame (pixelsLoaded pixels [] s)

/-- A frame's command turns are one for each PIXEL and one for ENCODE. -/
theorem replicate_command_succ (n : Nat) (turns : List Turn) :
    List.replicate (n + 1) (Turn.move .command) ++ turns =
      List.replicate n (Turn.move .command) ++ .move .command :: turns := by
  rw [List.replicate_succ', List.append_assoc]
  rfl

section ReadyForFrame
variable {s : State} {pixels : List Pixel} (h : ReadyForFrame s)
include h

theorem ReadyForFrame.wrPtr_toNat : s.wrPtr.toNat = 0 := by rw [h.nothing_loaded]; rfl

theorem ReadyForFrame.cmdReady : s.cmdReady = true := cmdReady_iff.mpr ⟨.inr h.idle, h.no_response⟩

theorem ReadyForFrame.phase_ne_unconfigured : s.phase ≠ .unconfigured := by simp [h.idle]

theorem ReadyForFrame.offerFrame_eq (pixels : List Pixel) :
    offerFrame pixels s = Accepted s s.agenda (pixelWords pixels ++ [encode .encode]) :=
  congrArg (Accepted s s.agenda) (offerFrame_offered h.nothing_offered pixels)

theorem pixelsLoaded_wrPtr_toNat (hroom : pixels.length ≤ s.pixelCount) (ws : List Word) :
    (pixelsLoaded pixels ws s).wrPtr.toNat = pixels.length := by
  have hcount := storePixels_wrPtr_toNat h.inv (pixels := pixels) (by rw [h.wrPtr_toNat]; omega)
  rwa [h.wrPtr_toNat, Nat.zero_add] at hcount

theorem pixelsLoaded_read {i : Nat} (hi : i < pixels.length) (ws : List Word) :
    FrameMem.read (pixelsLoaded pixels ws s).fm i = pixels[i]? := by
  have hfm : (pixelsLoaded pixels ws s).fm = writePixels s.fm 0 pixels := by rw [← h.wrPtr_toNat]; rfl
  have hread := read_writePixels (m := s.fm) (i := 0) hi
  rw [Nat.zero_add] at hread
  rwa [hfm]

/-- The PIXELs offered to a block with room for them are accepted one after another. -/
theorem transmit_offered_pixels (hroom : pixels.length ≤ s.pixelCount) (ws : List Word) (turns : List Turn) :
    transmit (List.replicate pixels.length (.move .command) ++ turns)
      (Accepted s s.agenda (pixelWords pixels ++ ws)) = transmit turns (pixelsLoaded pixels ws s) := by
  have hroom' : s.wrPtr.toNat + pixels.length ≤ s.pixelCount := by rwa [h.wrPtr_toNat, Nat.zero_add]
  exact transmit_pixels (s := Accepted s s.agenda (pixelWords pixels ++ ws)) (inv_accepted h.inv s.agenda _) h.idle
    h.no_response rfl hroom' turns

/-- R87: a loaded frame has its bytes. -/
theorem exists_frameBytes_of_pixelsLoaded (hlen : pixels.length = s.pixelCount) :
    ∃ bytes, frameBytes s.width.toNat (frameBegun pixels s).fm s.pixelCount = some bytes := by
  refine exists_frameBytes fun p hp => ?_
  have hi : ridx s.width.toNat p < pixels.length := (ridx_lt hp).trans_eq hlen.symm
  have hread : FrameMem.read (frameBegun pixels s).fm (ridx s.width.toNat p) = _ := pixelsLoaded_read h hi []
  rw [hread, List.getElem?_eq_getElem hi]
  rfl

/-- A frame of N pixels is loaded, begun and emitted. -/
theorem transmit_full_frame (hlen : pixels.length = s.pixelCount) {bytes : List Byte}
    (hbytes : frameBytes s.width.toNat (frameBegun pixels s).fm s.pixelCount = some bytes) :
    transmit (List.replicate (pixels.length + 1) (.move .command) ++ List.replicate s.frameSize (.move .emit))
      (offerFrame pixels s) = .done (frameSent bytes (frameBegun pixels s)) := by
  have hencode : exec .encode (pixelsLoaded pixels [] s) = next (frameBegun pixels s) :=
    exec_encode_of_loaded h.phase_ne_unconfigured ((pixelsLoaded_wrPtr_toNat h hlen.le []).trans hlen)
  have hpos : 0 < s.frameSize := frameSize_pos_of_idle h.inv h.idle
  have hrun := runSteps_frame
    (s := { frameBegun pixels s with agenda := List.replicate s.frameSize (.move .emit) ++ s.agenda })
    rfl rfl hpos hbytes rfl
  rw [replicate_command_succ, h.offerFrame_eq, transmit_offered_pixels h hlen.le,
    transmit_command (s := pixelsLoaded pixels [encode .encode] s) h.cmdReady rfl hencode]
  exact transmit_emissions (s := frameBegun pixels s) rfl hrun Phase.noConfusion Phase.noConfusion

/-- A frame with too few pixels ends in FRAME_UNDERFLOW at its ENCODE. -/
theorem transmit_short_frame (hlen : pixels.length < s.pixelCount) :
    transmit (List.replicate (pixels.length + 1) (.move .command)) (offerFrame pixels s) =
      .fatal (faultCommand .frameUnderflow .encode (pixelsLoaded pixels [] s)) := by
  have hencode := exec_encode_of_underflow (s := pixelsLoaded pixels [] s) h.phase_ne_unconfigured
    ((pixelsLoaded_wrPtr_toNat h hlen.le []).trans_ne hlen.ne)
  have hturns := replicate_command_succ pixels.length []
  rw [List.append_nil] at hturns
  rw [hturns, h.offerFrame_eq, transmit_offered_pixels h hlen.le,
    transmit_command (s := pixelsLoaded pixels [encode .encode] s) h.cmdReady rfl hencode]
  exact transmit_fault [] rfl

/-- A frame with too many pixels ends in FRAME_OVERFLOW at the first PIXEL past the frame. -/
theorem transmit_long_frame {px : Pixel} {more : List Pixel} (hlen : pixels.length = s.pixelCount) :
    transmit (List.replicate ((pixels ++ px :: more).length + 1) (.move .command))
      (offerFrame (pixels ++ px :: more) s) = .fatal (faultCommand .frameOverflow (pixelCommandOf px)
        (pixelsLoaded pixels (pixelWords more ++ [encode .encode]) s)) := by
  have hturns : List.replicate ((pixels ++ px :: more).length + 1) (Turn.move .command) =
      List.replicate pixels.length (.move .command) ++
        .move .command :: List.replicate (more.length + 1) (.move .command) := by
    rw [List.length_append, List.length_cons, Nat.add_assoc, ← List.replicate_append_replicate]
    rfl
  have hwords : pixelWords (pixels ++ px :: more) ++ [encode .encode] =
      pixelWords pixels ++ encode (pixelCommandOf px) :: (pixelWords more ++ [encode .encode]) := by
    simp [pixelWords]
  have hfull := exec_pixel_of_full (s := pixelsLoaded pixels (pixelWords more ++ [encode .encode]) s)
    h.phase_ne_unconfigured ((pixelsLoaded_wrPtr_toNat h hlen.le _).trans hlen)
    (redOf px) (greenOf px) (blueOf px)
  rw [hturns, h.offerFrame_eq, hwords, transmit_offered_pixels h hlen.le,
    transmit_command (s := pixelsLoaded pixels (encode (pixelCommandOf px) :: (pixelWords more ++ [encode .encode])) s)
      h.cmdReady rfl hfull]
  exact transmit_fault _ rfl
end ReadyForFrame

/-- Settles O52, by the length of the frame: the PIXELs load it as far as it has room, and the next word begins its
emissions or faults. -/
theorem pacedFrameTransmitted : Obligations.PacedFrameTransmitted := by
  refine ⟨fun s pixels hinv hp hrsp hptr ho hlen => ?full, fun s pixels hinv hp hrsp hptr ho hlen => ?short,
    fun s pixels hinv hp hrsp hptr ho hlen => ?long⟩ <;> have h : ReadyForFrame s := ⟨hinv, hp, hrsp, hptr, ho⟩
  case full =>
    obtain ⟨bytes, hbytes⟩ := exists_frameBytes_of_pixelsLoaded h hlen
    have htransmit := transmit_full_frame h hlen hbytes
    rw [State.frameSize, State.pixelCount, ← hlen] at htransmit
    rw [State.pixelCount, ← hlen] at hbytes
    exact ⟨_, bytes, htransmit, fun i hi => pixelsLoaded_read h hi [], hbytes, rfl, frameBytes_length hbytes, rfl, rfl,
      rfl, rfl⟩
  case short => exact ⟨_, transmit_short_frame h hlen, rfl, rfl⟩
  case long =>
    obtain ⟨px, more, hsplit⟩ : ∃ px more, pixels.drop s.pixelCount = px :: more :=
      List.exists_cons_of_length_pos (by rw [List.length_drop]; exact Nat.sub_pos_of_lt hlen)
    have hpixels : pixels.take s.pixelCount ++ px :: more = pixels := hsplit ▸ List.take_append_drop _ _
    have htake : (pixels.take s.pixelCount).length = s.pixelCount := List.length_take_of_le hlen.le
    have htransmit := transmit_long_frame h (px := px) (more := more) htake
    rw [hpixels] at htransmit
    exact ⟨_, htransmit, rfl, rfl⟩

end Sys2Proof.Proofs
